-- ==== Sys2Proof/Word.lean ====
section
/-! DEFINITION. The bit-vector types of SHAENG and a fixed-length register file built from a function.
Widths are those of spec/10_state.md R21 (word registers 64 bits), R31 (control registers 32 bits), 00_scope.md R12 (a byte is 8 bits)
and 20_memory.md R62 (host addresses 25 bits). -/

namespace Sys2Proof

/-- A byte (00 R12). -/
abbrev Byte := BitVec 8

/-- A word register, wide enough for both word widths (10 R21). -/
abbrev Reg64 := BitVec 64

/-- A control register or a command word (10 R31, 30 R90). -/
abbrev Word32 := BitVec 32

/-- A host address (20 R62). -/
abbrev HostAddr := BitVec 25

/-- The register file of `n` elements whose element `i` is `f i`. -/
def regFile {α : Type} (n : Nat) (f : Nat → α) : Vector α n :=
  ⟨((List.range n).map f).toArray, by simp⟩

end Sys2Proof
end

