-- ==== Sys2Proof/Syntax.lean ====
section
/-! DEFINITION. The names of SHAENG: variants, commands, error codes, memory spaces and host actions.
Instr has one constructor for every row of spec/opcode_table.json (30_encoding.md R92). -/

namespace Sys2Proof

/-- The closed set of variants, in the order of their tags 0 to 7 (30 R96). -/
inductive VariantTag where
  | sha1 | sha224 | sha256 | sha384 | sha512 | sha512_224 | sha512_256 | sha512t
  deriving DecidableEq, Repr

/-- Which recurrence and which round formula a variant uses (00 R14, 43 R203). -/
inductive Family where
  | sha1 | sha2
  deriving DecidableEq, Repr

/-- The eleven commands (30 R92). Only SETVAR has operands: the variant and the truncation parameter `t` (30 R90, R91). -/
inductive Instr where
  | nop
  | setvar (tag : VariantTag) (t : BitVec 10)
  | init
  | padblk
  | expand
  | compress
  | block
  | output
  | hash
  | hmac
  | clear
  deriving DecidableEq, Repr

/-- The eight engine errors (60 R270). -/
inductive ErrCode where
  | eOpcode | eRsvd | eVariant | eT | eNovar | eLen | eBidx | eBusy
  deriving DecidableEq, Repr

/-- The two byte memories behind the host windows (10 R47). -/
inductive Space where
  | msg | key
  deriving DecidableEq, Repr

/-- The response of the host port (20 R60). -/
inductive Resp where
  | ok | busErr
  deriving DecidableEq, Repr

/-- What the host port answered to the last transaction (20 R60): nothing yet, a write's response, or a read's data and response. -/
inductive Reply where
  | none
  | write (resp : Resp)
  | read (data : Word32) (resp : Resp)
  deriving DecidableEq, Repr

/-- What can happen next: a host transaction (30 R99), the reset pin (70 R300), a power-up (10 R45, 93 U1),
or the engine's turn, in which a command in flight completes (00 R9, 70 R312).
DESIGN CHOICE, log entries 2 and 6. -/
inductive Event where
  | wr32 (addr : HostAddr) (data : Word32)
  | wr8 (addr : HostAddr) (data : Byte)
  | rd32 (addr : HostAddr)
  | rd8 (addr : HostAddr)
  | reset
  | powerUp
  | engine
  deriving DecidableEq, Repr

/-- The sequencer's stage: idle or a micro-operation of 42 R183, 44 R242 and R250, 43 R224 (10 R29). -/
inductive Stage where
  | idle
  | uCOPY | uSCHED | uZERO | uLOAD | uROUND | uFEED
  | uINIT | uFETCH | uOUT | uWIPE
  | uKEY | uINNER | uOUTER
  | uBOOT0 | uBOOT1
  deriving DecidableEq, Repr

end Sys2Proof
end

