-- ==== Sys2Proof/WellFormed.lean ====
section
/-! DEFINITION. Which commands are well formed: those a command word can name without a decode error (30_encoding.md R93, R95 steps 4 to 6). -/

namespace Sys2Proof

/-- `t_legal` (43 R223): a positive multiple of 8, less than 512, not 384. -/
def tLegal (t : BitVec 10) : Bool :=
  t.toNat % 8 == 0 && decide (0 < t.toNat) && decide (t.toNat < 512) && t.toNat != 384

/-- A command is well formed unless it is SETVAR with `t` set beside a tag other than 7 (R93) or with tag 7 and an illegal `t` (R223). -/
def Instr.wellFormed : Instr → Bool
  | .setvar .sha512t t => tLegal t
  | .setvar _ t => t == 0
  | .nop => true
  | .init => true
  | .padblk => true
  | .expand => true
  | .compress => true
  | .block => true
  | .output => true
  | .hash => true
  | .hmac => true
  | .clear => true

end Sys2Proof
end

