-- ==== Sys2Proof/Decode.lean ====
section
/-! DEFINITION. The command decoder and encoder (30_encoding.md R90 to R97).
The decoder is total on all 2^32 words and refuses by the error the spec names (R95 steps 3 to 6). -/

namespace Sys2Proof

/-- The 4-bit tag of a variant (30 R96). -/
def VariantTag.bits : VariantTag → BitVec 4
  | .sha1 => 0
  | .sha224 => 1
  | .sha256 => 2
  | .sha384 => 3
  | .sha512 => 4
  | .sha512_224 => 5
  | .sha512_256 => 6
  | .sha512t => 7

/-- The variant a 4-bit tag names; tags 8 to 15 are reserved (30 R96). -/
def VariantTag.ofBits (b : BitVec 4) : Option VariantTag :=
  match b.toNat with
  | 0 => some .sha1
  | 1 => some .sha224
  | 2 => some .sha256
  | 3 => some .sha384
  | 4 => some .sha512
  | 5 => some .sha512_224
  | 6 => some .sha512_256
  | 7 => some .sha512t
  | _ => none

/-- Field `op` of a command word, bits 31:28 (30 R90). -/
def fieldOp (c : Word32) : BitVec 4 := c.extractLsb' 28 4

/-- Field `tag` of a format V word, bits 27:24 (30 R90, R91). -/
def fieldTag (c : Word32) : BitVec 4 := c.extractLsb' 24 4

/-- Field `t` of a format V word, bits 9:0 (30 R90, R91). -/
def fieldT (c : Word32) : BitVec 10 := c.extractLsb' 0 10

/-- A format N word names `i` when its reserved bits 27:0 are zero (30 R90, R93). -/
def decodeFormatN (c : Word32) (i : Instr) : Except ErrCode Instr :=
  if c.extractLsb' 0 28 = 0 then .ok i else .error .eRsvd

/-- A format V word: E_VARIANT, then E_RSVD, then E_T (30 R95 steps 4 to 6). -/
def decodeSetvar (c : Word32) : Except ErrCode Instr :=
  match VariantTag.ofBits (fieldTag c) with
  | none => .error .eVariant
  | some tag =>
    if c.extractLsb' 10 14 ≠ 0 ∨ (tag ≠ .sha512t ∧ fieldT c ≠ 0) then .error .eRsvd
    else if tag = .sha512t ∧ tLegal (fieldT c) = false then .error .eT
    else .ok (.setvar tag (fieldT c))

/-- The command a word names, or the decode error it raises (30 R92, R95 steps 3 to 6). -/
def decode (c : Word32) : Except ErrCode Instr :=
  match (fieldOp c).toNat with
  | 0 => decodeFormatN c .nop
  | 1 => decodeSetvar c
  | 2 => decodeFormatN c .init
  | 3 => decodeFormatN c .padblk
  | 4 => decodeFormatN c .expand
  | 5 => decodeFormatN c .compress
  | 6 => decodeFormatN c .block
  | 7 => decodeFormatN c .output
  | 8 => decodeFormatN c .hash
  | 9 => decodeFormatN c .hmac
  | 10 => decodeFormatN c .clear
  | _ => .error .eOpcode

/-- A format N word with opcode `op` (30 R90). -/
def encodeFormatN (op : BitVec 4) : Word32 := op ++ (0 : BitVec 28)

/-- The word of a command (30 R90, R92). -/
def encode : Instr → Word32
  | .nop => encodeFormatN 0x0
  | .setvar tag t => (0x1 : BitVec 4) ++ (tag.bits ++ ((0 : BitVec 14) ++ t))
  | .init => encodeFormatN 0x2
  | .padblk => encodeFormatN 0x3
  | .expand => encodeFormatN 0x4
  | .compress => encodeFormatN 0x5
  | .block => encodeFormatN 0x6
  | .output => encodeFormatN 0x7
  | .hash => encodeFormatN 0x8
  | .hmac => encodeFormatN 0x9
  | .clear => encodeFormatN 0xA

/-- What the decoder reads from a table word of `nbits` bits with value `w`; a command is one 32-bit word (30 R97). -/
def decodeTableWord (nbits w : Nat) : Option Instr :=
  match decode (BitVec.ofNat 32 (w % 2 ^ nbits)) with
  | .ok i => some i
  | .error _ => none

end Sys2Proof
end

