-- ==== Sys2Proof/Config.lean ====
section
/-! DEFINITION. What an implementation fixes (00_scope.md R7) and the free value of the model (93_implementation_defined.md U1). -/

namespace Sys2Proof

/-- The capacities of the two memories (00 R7, 93 U7). They are a field of State, so every claim holds for every legal choice. -/
structure Config.Params where
  msgCap : Nat
  keyCap : Nat
  deriving DecidableEq, Repr

/-- The defaults of 00 R7. -/
def Config.defaultParams : Config.Params := { msgCap := 65536, keyCap := 1024 }

/-- The constraints of 00 R7. -/
abbrev Config.Params.legal (p : Config.Params) : Prop :=
  p.msgCap % 4 = 0 ∧ 4 ≤ p.msgCap ∧ p.msgCap ≤ 2 ^ 24 ∧ p.keyCap % 4 = 0 ∧ 132 ≤ p.keyCap ∧ p.keyCap ≤ 4096

/-- FREE VALUE (log entry 5): the byte that a read of address `a` of a memory gives when no host write has set that byte
since the latest power-up (20 R73, 93 U1). `gen` counts the power-ups. Nothing in Lean can evaluate it. -/
opaque Config.unwrittenByte (gen : Nat) (space : Space) (a : Nat) : Byte

end Sys2Proof
end

