-- ==== Sys2Proof/Machine/State.lean ====
section
/-! DEFINITION. The state of SHAENG (spec/10_state.md R20) and the machine right after reset (R48).
Beside the spec's state it holds the model's own fields: the implementation parameters (log entry 4), the count of power-ups (entry 6),
what will happen next (entry 2) and the host port's last answer (entry 3). -/

namespace Sys2Proof.Machine

/-- The fields of STATUS (10 R34); its reserved bits read 0 and hold nothing. -/
structure Status where
  busy : Bool
  done : Bool
  err : Bool
  errcode : BitVec 8
  deriving DecidableEq, Repr

/-- The fields of IEN (10 R35); its other bits read 0 and ignore writes. -/
structure IntEnable where
  doneIe : Bool
  errIe : Bool
  deriving DecidableEq, Repr

/-- The fields of VARIANT (10 R36); its reserved bits read 0. -/
structure VariantReg where
  valid : Bool
  tag : VariantTag
  t : BitVec 10
  deriving DecidableEq, Repr

/-- The sequencer's record (10 R29). -/
structure Seq where
  stage : Stage
  j : BitVec 32
  t : BitVec 7
  deriving DecidableEq, Repr

/-- The complete state (10 R20), and the model's own fields after `key`. -/
structure State where
  /-- `H`, the running hash State (10 R22). -/
  h : Vector Reg64 8
  /-- `BLK`, the Block (10 R23). -/
  blk : Vector Reg64 16
  /-- `W`, the message schedule (10 R24). -/
  w : Vector Reg64 80
  /-- `V`, the working variables, hidden (10 R25). -/
  v : Vector Reg64 8
  /-- `IVR`, the variant's IV, hidden (10 R26). -/
  ivr : Vector Reg64 8
  /-- `K0`, the normalised HMAC key, hidden (10 R27). -/
  k0 : Vector Byte 128
  /-- `DOUT`, the digest (10 R28). -/
  dout : Vector Byte 64
  /-- `SEQ`, the sequencer, hidden (10 R29). -/
  seq : Seq
  /-- `CMD`, the last accepted command word (10 R33). -/
  cmd : Word32
  /-- `STATUS` (10 R34). -/
  status : Status
  /-- `IEN` (10 R35). -/
  ien : IntEnable
  /-- `VARIANT` (10 R36). -/
  variant : VariantReg
  /-- `MSG_LEN` (10 R37). -/
  msgLen : Word32
  /-- `KEY_LEN` (10 R38). -/
  keyLen : Word32
  /-- `BIDX` (10 R39). -/
  bidx : Word32
  /-- `MSG`: the bytes a host write has set since power-up, in canonical form (10 R45). -/
  msg : List Host.Cell
  /-- `KEY`: as `msg` (10 R46). -/
  key : List Host.Cell
  /-- MODEL: `MSG_CAP` and `KEY_CAP` (00 R7), which no step changes. -/
  params : Config.Params
  /-- MODEL: how many power-ups there have been. -/
  powerUps : Nat
  /-- MODEL: what happens next, first event first. -/
  events : List Event
  /-- MODEL: the host port's answer to the last transaction (20 R60). -/
  reply : Reply
  deriving DecidableEq, Repr

/-- Why the machine stops. No run from reset reaches one: "Nothing in this hardware is stuck" (93 Part 1). -/
inductive Fault where
  /-- Raised by the engine's turn (`engineTurn`) when BUSY = 1 and CMD holds a word that decodes to no command, so that no accept
  can have latched it (10 R33). Safe: such a state is unreachable, and stopping proves nothing about the hardware (log entry 13). -/
  | noCommandInFlight
  deriving DecidableEq, Repr

/-- Why an instruction has no meaning. -/
inductive Refusal where
  /-- Raised by an arm of `exec` that has no meaning yet; no arm does. Safe. -/
  | notModelled (mnemonic : String)
  deriving DecidableEq, Repr

/-- The zero register file. -/
def zeros (n k : Nat) : Vector (BitVec k) n := Vector.replicate n 0

/-- The machine right after reset (10 R48, 70 R300) with the default parameters (00 R7), nothing written in the memories (93 U1)
and nothing to happen. -/
def State.reset : State where
  h := zeros 8 64
  blk := zeros 16 64
  w := zeros 80 64
  v := zeros 8 64
  ivr := zeros 8 64
  k0 := zeros 128 8
  dout := zeros 64 8
  seq := { stage := .idle, j := 0, t := 0 }
  cmd := 0
  status := { busy := false, done := false, err := false, errcode := 0 }
  ien := { doneIe := false, errIe := false }
  variant := { valid := false, tag := .sha1, t := 0 }
  msgLen := 0
  keyLen := 0
  bidx := 0
  msg := []
  key := []
  params := Config.defaultParams
  powerUps := 0
  events := []
  reply := .none

end Sys2Proof.Machine
end

