-- ==== Sys2Proof/Machine/Ops.lean ====
section
/-! DEFINITION. The named operations over memory and state: byte memories, taking an error and acknowledging it (60_exceptions.md R281, R282),
the two host-visible steps of a command (00_scope.md R9, 45_control.md R262), and reset (70_reset_and_hazards.md R300). -/

namespace Sys2Proof.Machine

/-- The canonical form of a memory: addresses strictly rising. An unlisted address holds no value (20 R73), so no entry can equal it. -/
abbrev memWf (m : List Host.Cell) : Prop := m.Pairwise (fun x y => x.1 < y.1)

/-- The byte at `a` that a host write has set, if any. -/
def memGet : List Host.Cell → Nat → Option Byte
  | [], _ => none
  | (x, b) :: m, a => if x = a then some b else memGet m a

/-- Set the byte at `a`, keeping the canonical form. -/
def memSet : List Host.Cell → Nat → Byte → List Host.Cell
  | [], a, b => [(a, b)]
  | (x, c) :: m, a, b =>
    if a < x then (a, b) :: (x, c) :: m
    else if a = x then (a, b) :: m
    else (x, c) :: memSet m a b

/-- Set consecutive bytes from `a` on, the first at `a` (20 R64). -/
def memSetAll : List Host.Cell → Nat → List Byte → List Host.Cell
  | m, _, [] => m
  | m, a, b :: bs => memSetAll (memSet m a b) (a + 1) bs

/-- The memory of a space (10 R45, R46). -/
def memOf (s : State) : Space → List Host.Cell
  | .msg => s.msg
  | .key => s.key

/-- The capacity of a space in bytes (00 R7). -/
def capOf (s : State) : Space → Nat
  | .msg => s.params.msgCap
  | .key => s.params.keyCap

/-- The byte a read of address `a` gives: what the host wrote, or the free value of a byte no host write has set (20 R73, 93 U1; log entry 5). -/
def readByte (s : State) (sp : Space) (a : Nat) : Byte :=
  match memGet (memOf s sp) a with
  | some b => b
  | none => Config.unwrittenByte s.powerUps sp a

/-- `MemRead(space, start, n)` (00 R13, 20 R72). -/
def memRead (s : State) (sp : Space) (start n : Nat) : List Byte :=
  (List.range n).map (fun i => readByte s sp (start + i))

/-- Store bytes of a host write in a window (20 R64). -/
def memStore (s : State) (sp : Space) (a : Nat) (bs : List Byte) : State :=
  match sp with
  | .msg => { s with msg := memSetAll s.msg a bs }
  | .key => { s with key := memSetAll s.key a bs }

/-- The code STATUS.ERRCODE records (60 R270). -/
def errCode : ErrCode → BitVec 8
  | .eOpcode => 0x01
  | .eRsvd => 0x02
  | .eVariant => 0x03
  | .eT => 0x04
  | .eNovar => 0x05
  | .eLen => 0x06
  | .eBidx => 0x07
  | .eBusy => 0x08

/-- TAKING AN ERROR (60 R281): ERR and ERRCODE are set if ERR was clear; nothing else changes; the first error is kept. -/
def errorEntry (e : ErrCode) (s : State) : State :=
  if s.status.err then s
  else { s with status := { s.status with err := true, errcode := errCode e } }

/-- THE RETURN (60 R282, 10 R34): a host write of `data` to STATUS clears DONE by bit 1, and ERR with ERRCODE by bit 2. -/
def acknowledge (data : Word32) (s : State) : State :=
  { s with status :=
    { busy := s.status.busy
      done := s.status.done && !data.getLsbD 1
      err := s.status.err && !data.getLsbD 2
      errcode := if data.getLsbD 2 then 0 else s.status.errcode } }

/-- The idle sequencer (10 R29). -/
def seqIdle : Seq := { stage := .idle, j := 0, t := 0 }

/-- ACCEPT (30 R95 step 11, 45 R262): CMD is latched, BUSY set, DONE cleared; SEQ holds the first micro-operation
(10 R29; log entry 8) with `j` and `t` 0 (DESIGN CHOICE, log entry 15). -/
def accept (c : Word32) (start : Stage) (s : State) : State :=
  { s with
    cmd := c
    status := { s.status with busy := true, done := false }
    seq := { stage := start, j := 0, t := 0 } }

/-- COMPLETE (45 R262): BUSY cleared, DONE set, the sequencer idle (10 R29), after the command's effect. -/
def finish (s : State) : State :=
  { s with status := { s.status with busy := false, done := true }, seq := seqIdle }

/-- The first error of a list of checks, in order (60 R280). -/
def firstError : List (Option ErrCode) → Option ErrCode
  | [] => none
  | some e :: _ => some e
  | none :: cs => firstError cs

/-- The next of the two host-visible steps of a command (00 R9; log entry 1).
Not in flight (BUSY = 0): the command is issued. It is ignored while ERR = 1 (30 R95 step 2, 60 R283); else the first failing check
is taken as an error (steps 3 to 10); else it is accepted (step 11).
In flight (BUSY = 1): the command completes, its whole effect at once (00 R9, R13). -/
def command (c : Word32) (start : Stage) (checks : List (Option ErrCode)) (effect : State → State) (s : State) :
    Host.Outcome State Fault Refusal :=
  if s.status.busy then .next (finish (effect s))
  else if s.status.err then .next s
  else
    match firstError checks with
    | some e => .next (errorEntry e s)
    | none => .next (accept c start s)

/-- RESET (70 R300): the table of 10 R48; MSG and KEY keep their bytes; a command in flight is abandoned.
The model's own fields stand, but for the last answer. -/
def hardReset (s : State) : State :=
  { State.reset with
    msg := s.msg, key := s.key, params := s.params, powerUps := s.powerUps, events := s.events }

/-- A POWER-UP: reset, and no byte of MSG or KEY has been set since (10 R45, R48, 93 U1; log entry 6). -/
def powerUp (s : State) : State :=
  { State.reset with params := s.params, powerUps := s.powerUps + 1, events := s.events }

/-- The state with the event list `es`. -/
def withEvents (es : List Event) (s : State) : State := { s with events := es }

/-- The state with the host port's answer `r` (20 R60). -/
def withReply (r : Reply) (s : State) : State := { s with reply := r }

/-- Apply `f` to the next state, if there is one. -/
def mapNext (f : State → State) : Host.Outcome State Fault Refusal → Host.Outcome State Fault Refusal
  | .next s => .next (f s)
  | .fault r => .fault r
  | .refused r => .refused r

end Sys2Proof.Machine
end

