-- ==== Sys2Proof/Machine/Codec.lean ====
section
/-! DEFINITION. WordCodec and Padding as pure functions (spec/41_codec_padding.md R150 to R160). -/

namespace Sys2Proof.Machine

/-- Bytes per Word, `wb = w div 8`. -/
def wordBytes (w : Nat) : Nat := w / 8

/-- Byte `i` of `s`, a missing trailing byte counting as zero (41 R150). -/
def byteAt (s : List Byte) (i : Nat) : Byte := s.getD i 0

/-- The big-endian Word of the `wb` bytes of `s` from index `at` on (41 R150). -/
def packWord (w : Nat) (s : List Byte) (start : Nat) : BitVec w :=
  BitVec.ofNat w ((List.range (wordBytes w)).foldl (fun acc j => acc * 256 + (byteAt s (start + j)).toNat) 0)

/-- `bytesToWords` (41 R150): `ceil(len / wb)` big-endian Words. -/
def bytesToWords (w : Nat) (s : List Byte) : List (BitVec w) :=
  (List.range ((s.length + (wordBytes w - 1)) / wordBytes w)).map (fun k => packWord w s (k * wordBytes w))

/-- The `wb` bytes of one Word, most significant first (41 R151). -/
def wordToBytes {w : Nat} (x : BitVec w) : List Byte :=
  (List.range (wordBytes w)).map (fun j => x.extractLsb' (8 * (wordBytes w - 1 - j)) 8)

/-- `wordsToBytes` (41 R151). -/
def wordsToBytes {w : Nat} (ws : List (BitVec w)) : List Byte := ws.flatMap wordToBytes

/-- How many zero Words step 3 appends when `wordCount mod 16 = m` (41 R154). -/
def zeroWordCount (m : Nat) : Nat := if m ≤ 14 then 14 - m else 30 - m

/-- The two-Word length suffix holding the 64-bit bit length (41 R155). -/
def lengthSuffix (w : Nat) (byteCount : Nat) : List (BitVec w) :=
  let len : Reg64 := BitVec.ofNat 64 (8 * byteCount)
  if w = 32 then [(len.extractLsb' 32 32).setWidth w, (len.extractLsb' 0 32).setWidth w]
  else [0, len.setWidth w]

/-- `padWords` (41 R153 to R156): marker byte, zero Words, length suffix. -/
def padWords (w : Nat) (m : List Byte) : List (BitVec w) :=
  let ws := bytesToWords w (m ++ [0x80])
  ws ++ List.replicate (zeroWordCount (ws.length % 16)) 0 ++ lengthSuffix w m.length

/-- The 16 Words from index `16 * j` on (41 R157). -/
def blockAt {w : Nat} (ws : List (BitVec w)) (j : Nat) : Vector (BitVec w) 16 :=
  regFile 16 (fun i => ws.getD (16 * j + i) 0)

/-- Block `j` of the padded message (41 R157). -/
def paddedBlock (w : Nat) (m : List Byte) (j : Nat) : Vector (BitVec w) 16 := blockAt (padWords w m) j

/-- The number of Blocks `pad` makes of `n` bytes (41 R158). -/
def nblk (w : Nat) (n : Nat) : Nat := (n + 2 * wordBytes w) / (16 * wordBytes w) + 1

end Sys2Proof.Machine
end

