-- ==== Sys2Proof/Machine/WordOps.lean ====
section
/-! DEFINITION. The combinational operations of the datapath, at any word width `w`; SHAENG uses 32 and 64 (spec/40_word_ops.md).
Addition modulo `2^w`, XOR, AND and NOT (R121, R122) are those of `BitVec w`. -/

namespace Sys2Proof.Machine

variable {w : Nat}

/-- `rotateRight` for `0 < n < w` (40 R123). -/
def rotateRight (x : BitVec w) (n : Nat) : BitVec w := x >>> n ||| x <<< (w - n)

/-- `rotateLeft` for `0 < n < w` (40 R124). -/
def rotateLeft (x : BitVec w) (n : Nat) : BitVec w := x <<< n ||| x >>> (w - n)

/-- `shiftRight`, zeros enter at the top (40 R125). -/
def shiftRight (x : BitVec w) (n : Nat) : BitVec w := x >>> n

/-- `ch` (40 R126). -/
def ch (x y z : BitVec w) : BitVec w := (x &&& y) ^^^ (~~~x &&& z)

/-- `maj` (40 R127). -/
def maj (x y z : BitVec w) : BitVec w := (x &&& y) ^^^ (x &&& z) ^^^ (y &&& z)

/-- `parity` (40 R128). -/
def parity (x y z : BitVec w) : BitVec w := x ^^^ y ^^^ z

/-- `sigma0` (40 R129); amounts of 93 G2. -/
def sigma0 (x : BitVec w) : BitVec w :=
  if w = 32 then rotateRight x 2 ^^^ rotateRight x 13 ^^^ rotateRight x 22
  else rotateRight x 28 ^^^ rotateRight x 34 ^^^ rotateRight x 39

/-- `sigma1` (40 R130). -/
def sigma1 (x : BitVec w) : BitVec w :=
  if w = 32 then rotateRight x 6 ^^^ rotateRight x 11 ^^^ rotateRight x 25
  else rotateRight x 14 ^^^ rotateRight x 18 ^^^ rotateRight x 41

/-- `delta0` (40 R131). -/
def delta0 (x : BitVec w) : BitVec w :=
  if w = 32 then rotateRight x 7 ^^^ rotateRight x 18 ^^^ shiftRight x 3
  else rotateRight x 1 ^^^ rotateRight x 8 ^^^ shiftRight x 7

/-- `delta1` (40 R132). -/
def delta1 (x : BitVec w) : BitVec w :=
  if w = 32 then rotateRight x 17 ^^^ rotateRight x 19 ^^^ shiftRight x 10
  else rotateRight x 19 ^^^ rotateRight x 61 ^^^ shiftRight x 6

end Sys2Proof.Machine
end

