-- ==== Sys2Proof/Machine/Compression.lean ====
section
/-! DEFINITION. The message-schedule expander, the rounds, the feedback, and the hash of a byte string
(spec/42_compression.md R170 to R180, spec/43_variants.md R230, spec/44_hash_hmac.md R240, R245 to R248).
A State is eight Words; SHA-1 uses the first five (10_state.md R22). -/

namespace Sys2Proof.Machine

/-- What the expander and the rounds take from a variant descriptor (43 R200). The constants are kept 64 bits wide. -/
structure Algo where
  family : Family
  sw : Nat
  n : Nat
  k : List Reg64
  deriving DecidableEq, Repr

variable {w : Nat}

/-- Schedule entry `i >= 16` from the entries before it (42 R172, R173). -/
def scheduleWord (f : Family) (S : List (BitVec w)) (i : Nat) : BitVec w :=
  match f with
  | .sha1 => rotateLeft (S.getD (i - 3) 0 ^^^ S.getD (i - 8) 0 ^^^ S.getD (i - 14) 0 ^^^ S.getD (i - 16) 0) 1
  | .sha2 => S.getD (i - 16) 0 + delta0 (S.getD (i - 15) 0) + S.getD (i - 7) 0 + delta1 (S.getD (i - 2) 0)

/-- `expand` (42 R170, R171): the 16 Words of the Block, then `n - 16` more in increasing order. -/
def expand (a : Algo) (blk : Vector (BitVec w) 16) : List (BitVec w) :=
  (List.range' 16 (a.n - 16)).foldl (fun S i => S ++ [scheduleWord a.family S i]) blk.toList

/-- The round constant of round `t`: by phase for SHA-1 (42 R176), by round for SHA-2 (R177). -/
def roundConst (a : Algo) (t : Nat) : BitVec w :=
  match a.family with
  | .sha1 => (a.k.getD (t / 20) 0).setWidth w
  | .sha2 => (a.k.getD t 0).setWidth w

/-- The mixing function of SHA-1 phase `p` (42 R176). -/
def phaseMix (p : Nat) (b c d : BitVec w) : BitVec w :=
  match p with
  | 0 => ch b c d
  | 1 => parity b c d
  | 2 => maj b c d
  | _ => parity b c d

/-- SHA-1 round `t` on `(a, b, c, d, e) = V[0..4]` (42 R176). -/
def roundSha1 (k : BitVec w) (t : Nat) (V : Vector (BitVec w) 8) (s : BitVec w) : Vector (BitVec w) 8 :=
  let T := rotateLeft V[0] 5 + phaseMix (t / 20) V[1] V[2] V[3] + V[4] + k + s
  #v[T, V[0], rotateLeft V[1] 30, V[2], V[3], V[5], V[6], V[7]]

/-- SHA-2 round on `(a, ..., h) = V[0..7]` (42 R177). -/
def roundSha2 (k : BitVec w) (V : Vector (BitVec w) 8) (s : BitVec w) : Vector (BitVec w) 8 :=
  let t1 := V[7] + sigma1 V[4] + ch V[4] V[5] V[6] + k + s
  let t2 := sigma0 V[0] + maj V[0] V[1] V[2]
  #v[t1 + t2, V[0], V[1], V[2], V[3] + t1, V[4], V[5], V[6]]

/-- Round `t` with schedule word `s` (42 R175, R203 of 43). -/
def roundFn (a : Algo) (t : Nat) (V : Vector (BitVec w) 8) (s : BitVec w) : Vector (BitVec w) 8 :=
  match a.family with
  | .sha1 => roundSha1 (roundConst a t) t V s
  | .sha2 => roundSha2 (roundConst a t) V s

/-- `rounds(state, S)` (42 R178): rounds `0` to `n - 1` in order. -/
def rounds (a : Algo) (st : Vector (BitVec w) 8) (S : List (BitVec w)) : Vector (BitVec w) 8 :=
  (List.range a.n).foldl (fun V t => roundFn a t V (S.getD t 0)) st

/-- `compress` (42 R179, R180): feedback into the first `sw` Words. -/
def compress (a : Algo) (st : Vector (BitVec w) 8) (S : List (BitVec w)) : Vector (BitVec w) 8 :=
  let V := rounds a st S
  Vector.ofFn (fun (i : Fin 8) => if i.val < a.sw then st[i] + V[i] else st[i])

/-- `compressBlock` (42 R180). -/
def compressBlock (a : Algo) (st : Vector (BitVec w) 8) (blk : Vector (BitVec w) 16) : Vector (BitVec w) 8 :=
  compress a st (expand a blk)

/-- The State after all Blocks of the padded message, from `iv` (44 R240 steps 1 and 2). -/
def hashState (a : Algo) (iv : Vector (BitVec w) 8) (m : List Byte) : Vector (BitVec w) 8 :=
  let ws := padWords w m
  (List.range (nblk w m.length)).foldl (fun S j => compressBlock a S (blockAt ws j)) iv

/-- `output` (43 R230): the first `dlen` bytes of the serialization of the first `sw` Words. -/
def outputBytes (a : Algo) (dlen : Nat) (st : Vector (BitVec w) 8) : List Byte :=
  (wordsToBytes (st.toList.take a.sw)).take dlen

/-- `Hash` (44 R240). -/
def hashBytes (a : Algo) (iv : Vector (BitVec w) 8) (dlen : Nat) (m : List Byte) : List Byte :=
  outputBytes a dlen (hashState a iv m)

/-- Key normalisation to `16 * wb` bytes (44 R246). -/
def normalKey (a : Algo) (iv : Vector (BitVec w) 8) (dlen : Nat) (key : List Byte) : List Byte :=
  let k1 := if key.length > 16 * wordBytes w then hashBytes a iv dlen key else key
  k1 ++ List.replicate (16 * wordBytes w - k1.length) 0

/-- A key block with every byte XORed with `x` (44 R247). -/
def xorPad (x : Byte) (k0 : List Byte) : List Byte := k0.map (fun b => b ^^^ x)

/-- `Hmac` (44 R245, R248). -/
def hmacBytes (a : Algo) (iv : Vector (BitVec w) 8) (dlen : Nat) (key msg : List Byte) : List Byte :=
  let k0 := normalKey a iv dlen key
  let inner := hashBytes a iv dlen (xorPad 0x36 k0 ++ msg)
  hashBytes a iv dlen (xorPad 0x5C k0 ++ inner)

end Sys2Proof.Machine
end

