-- ==== Sys2Proof/Machine/Variants.lean ====
section
/-! DEFINITION. Variant descriptors, constant tables, the derived-IV bootstrap and the output rule (spec/43_variants.md).
The numbers are the spec's own, supplied there from general knowledge (93_implementation_defined.md G4 to G9): PRESUMED, log entry 12. -/

namespace Sys2Proof.Machine

/-- Word width `w` (43 R201). -/
def tagW : VariantTag → Nat
  | .sha1 => 32
  | .sha224 => 32
  | .sha256 => 32
  | .sha384 => 64
  | .sha512 => 64
  | .sha512_224 => 64
  | .sha512_256 => 64
  | .sha512t => 64

/-- Round-mixing family (43 R201, R203). -/
def tagFamily : VariantTag → Family
  | .sha1 => .sha1
  | .sha224 => .sha2
  | .sha256 => .sha2
  | .sha384 => .sha2
  | .sha512 => .sha2
  | .sha512_224 => .sha2
  | .sha512_256 => .sha2
  | .sha512t => .sha2

/-- State words `sw` (43 R201). -/
def tagSw : VariantTag → Nat
  | .sha1 => 5
  | .sha224 => 8
  | .sha256 => 8
  | .sha384 => 8
  | .sha512 => 8
  | .sha512_224 => 8
  | .sha512_256 => 8
  | .sha512t => 8

/-- Iteration count `n` (43 R201). -/
def tagN : VariantTag → Nat
  | .sha1 => 80
  | .sha224 => 64
  | .sha256 => 64
  | .sha384 => 80
  | .sha512 => 80
  | .sha512_224 => 80
  | .sha512_256 => 80
  | .sha512t => 80

/-- Block size in bytes, `B = 16 * w div 8` (43 R204). -/
def tagB (tag : VariantTag) : Nat := 16 * tagW tag / 8

/-- Digest length in bytes for effective truncation parameter `t` (43 R201, R205). -/
def digestLen (tag : VariantTag) (t : Nat) : Nat :=
  match tag with
  | .sha1 => 20
  | .sha224 => 28
  | .sha256 => 32
  | .sha384 => 48
  | .sha512 => 64
  | .sha512_224 => 28
  | .sha512_256 => 32
  | .sha512t => t / 8

/-- SHA-1 phase constants (43 R213). -/
def k1Table : List Reg64 := [0x5A827999, 0x6ED9EBA1, 0x8F1BBCDC, 0xCA62C1D6]

/-- Round constants of SHA-224 and SHA-256 (43 R214). -/
def k256Table : List Reg64 :=
  [0x428A2F98, 0x71374491, 0xB5C0FBCF, 0xE9B5DBA5,
   0x3956C25B, 0x59F111F1, 0x923F82A4, 0xAB1C5ED5,
   0xD807AA98, 0x12835B01, 0x243185BE, 0x550C7DC3,
   0x72BE5D74, 0x80DEB1FE, 0x9BDC06A7, 0xC19BF174] ++
  [0xE49B69C1, 0xEFBE4786, 0x0FC19DC6, 0x240CA1CC,
   0x2DE92C6F, 0x4A7484AA, 0x5CB0A9DC, 0x76F988DA,
   0x983E5152, 0xA831C66D, 0xB00327C8, 0xBF597FC7,
   0xC6E00BF3, 0xD5A79147, 0x06CA6351, 0x14292967] ++
  [0x27B70A85, 0x2E1B2138, 0x4D2C6DFC, 0x53380D13,
   0x650A7354, 0x766A0ABB, 0x81C2C92E, 0x92722C85,
   0xA2BFE8A1, 0xA81A664B, 0xC24B8B70, 0xC76C51A3,
   0xD192E819, 0xD6990624, 0xF40E3585, 0x106AA070] ++
  [0x19A4C116, 0x1E376C08, 0x2748774C, 0x34B0BCB5,
   0x391C0CB3, 0x4ED8AA4A, 0x5B9CCA4F, 0x682E6FF3,
   0x748F82EE, 0x78A5636F, 0x84C87814, 0x8CC70208,
   0x90BEFFFA, 0xA4506CEB, 0xBEF9A3F7, 0xC67178F2]

/-- Round constants of the 64-bit-word variants (43 R215). -/
def k512Table : List Reg64 :=
  [0x428A2F98D728AE22, 0x7137449123EF65CD, 0xB5C0FBCFEC4D3B2F, 0xE9B5DBA58189DBBC,
   0x3956C25BF348B538, 0x59F111F1B605D019, 0x923F82A4AF194F9B, 0xAB1C5ED5DA6D8118,
   0xD807AA98A3030242, 0x12835B0145706FBE, 0x243185BE4EE4B28C, 0x550C7DC3D5FFB4E2,
   0x72BE5D74F27B896F, 0x80DEB1FE3B1696B1, 0x9BDC06A725C71235, 0xC19BF174CF692694] ++
  [0xE49B69C19EF14AD2, 0xEFBE4786384F25E3, 0x0FC19DC68B8CD5B5, 0x240CA1CC77AC9C65,
   0x2DE92C6F592B0275, 0x4A7484AA6EA6E483, 0x5CB0A9DCBD41FBD4, 0x76F988DA831153B5,
   0x983E5152EE66DFAB, 0xA831C66D2DB43210, 0xB00327C898FB213F, 0xBF597FC7BEEF0EE4,
   0xC6E00BF33DA88FC2, 0xD5A79147930AA725, 0x06CA6351E003826F, 0x142929670A0E6E70] ++
  [0x27B70A8546D22FFC, 0x2E1B21385C26C926, 0x4D2C6DFC5AC42AED, 0x53380D139D95B3DF,
   0x650A73548BAF63DE, 0x766A0ABB3C77B2A8, 0x81C2C92E47EDAEE6, 0x92722C851482353B,
   0xA2BFE8A14CF10364, 0xA81A664BBC423001, 0xC24B8B70D0F89791, 0xC76C51A30654BE30,
   0xD192E819D6EF5218, 0xD69906245565A910, 0xF40E35855771202A, 0x106AA07032BBD1B8] ++
  [0x19A4C116B8D2D0C8, 0x1E376C085141AB53, 0x2748774CDF8EEB99, 0x34B0BCB5E19B48A8,
   0x391C0CB3C5C95A63, 0x4ED8AA4AE3418ACB, 0x5B9CCA4F7763E373, 0x682E6FF3D6B2B8A3,
   0x748F82EE5DEFB2FC, 0x78A5636F43172F60, 0x84C87814A1F0AB72, 0x8CC702081A6439EC,
   0x90BEFFFA23631E28, 0xA4506CEBDE82BDE9, 0xBEF9A3F7B2C67915, 0xC67178F2E372532B] ++
  [0xCA273ECEEA26619C, 0xD186B8C721C0C207, 0xEADA7DD6CDE0EB1E, 0xF57D4F7FEE6ED178,
   0x06F067AA72176FBA, 0x0A637DC5A2C898A6, 0x113F9804BEF90DAE, 0x1B710B35131C471B,
   0x28DB77F523047D84, 0x32CAAB7B40C72493, 0x3C9EBE0A15C9BEBC, 0x431D67C49C100D4C,
   0x4CC5D4BECB3E42B6, 0x597F299CFC657E2A, 0x5FCB6FAB3AD6FAEC, 0x6C44198C4A475817]

/-- The SHA-512 machinery, used by every 64-bit-word variant and by the bootstrap (43 R201, R224). -/
def algo512 : Algo := { family := .sha2, sw := 8, n := 80, k := k512Table }

/-- The constant table of a variant (43 R201). -/
def tagK : VariantTag → List Reg64
  | .sha1 => k1Table
  | .sha224 => k256Table
  | .sha256 => k256Table
  | .sha384 => k512Table
  | .sha512 => k512Table
  | .sha512_224 => k512Table
  | .sha512_256 => k512Table
  | .sha512t => k512Table

/-- What the expander and the rounds take from a variant (43 R200, R201). -/
def tagAlgo (tag : VariantTag) : Algo :=
  { family := tagFamily tag, sw := tagSw tag, n := tagN tag, k := tagK tag }

/-- SHA-1 IV (43 R206), `IVR[5..7]` zero (R221). -/
def ivSha1 : Vector Reg64 8 :=
  #v[0x67452301, 0xEFCDAB89, 0x98BADCFE, 0x10325476,
   0xC3D2E1F0, 0x00000000, 0x00000000, 0x00000000]

/-- SHA-224 IV (43 R207). -/
def ivSha224 : Vector Reg64 8 :=
  #v[0xC1059ED8, 0x367CD507, 0x3070DD17, 0xF70E5939,
   0xFFC00B31, 0x68581511, 0x64F98FA7, 0xBEFA4FA4]

/-- SHA-256 IV (43 R208). -/
def ivSha256 : Vector Reg64 8 :=
  #v[0x6A09E667, 0xBB67AE85, 0x3C6EF372, 0xA54FF53A,
   0x510E527F, 0x9B05688C, 0x1F83D9AB, 0x5BE0CD19]

/-- SHA-384 IV (43 R209). -/
def ivSha384 : Vector Reg64 8 :=
  #v[0xCBBB9D5DC1059ED8, 0x629A292A367CD507, 0x9159015A3070DD17, 0x152FECD8F70E5939,
   0x67332667FFC00B31, 0x8EB44A8768581511, 0xDB0C2E0D64F98FA7, 0x47B5481DBEFA4FA4]

/-- SHA-512 IV (43 R210). -/
def ivSha512 : Vector Reg64 8 :=
  #v[0x6A09E667F3BCC908, 0xBB67AE8584CAA73B, 0x3C6EF372FE94F82B, 0xA54FF53A5F1D36F1,
   0x510E527FADE682D1, 0x9B05688C2B3E6C1F, 0x1F83D9ABFB41BD6B, 0x5BE0CD19137E2179]

/-- The bootstrap's XOR constant (43 R211). -/
def xorConst : Reg64 := 0xA5A5A5A5A5A5A5A5

/-- The modified IV the bootstrap starts from (43 R224). -/
def bootIv : Vector Reg64 8 := ivSha512.map (fun x => x ^^^ xorConst)

/-- One ASCII decimal digit (43 R225). -/
def digitByte (d : Nat) : Byte := BitVec.ofNat 8 (0x30 + d)

/-- The ASCII decimal numeral of `t`, no leading zero (43 R225; `t` has at most three digits there). -/
def decimalBytes (t : Nat) : List Byte :=
  if t < 10 then [digitByte t]
  else if t < 100 then [digitByte (t / 10), digitByte (t % 10)]
  else [digitByte (t / 100), digitByte (t / 10 % 10), digitByte (t % 10)]

/-- The label "SHA-512/" followed by the numeral of `t` (43 R224). -/
def bootLabel (t : Nat) : List Byte :=
  [0x53, 0x48, 0x41, 0x2D, 0x35, 0x31, 0x32, 0x2F] ++ decimalBytes t

/-- The derived IV for truncation parameter `t`: all eight Words of the final State (43 R224). -/
def derivedIv (t : Nat) : Vector Reg64 8 := hashState (w := 64) algo512 bootIv (bootLabel t)

/-- The effective truncation parameter `T` (30 R91). -/
def effectiveT (tag : VariantTag) (t : BitVec 10) : BitVec 10 :=
  match tag with
  | .sha512_224 => 224
  | .sha512_256 => 256
  | .sha512t => t
  | .sha1 => 0
  | .sha224 => 0
  | .sha256 => 0
  | .sha384 => 0
  | .sha512 => 0

/-- The IV SETVAR loads: ROM for tags 0 to 4 (43 R221), the bootstrap for tags 5 to 7 (R222). -/
def variantIv (tag : VariantTag) (t : BitVec 10) : Vector Reg64 8 :=
  match tag with
  | .sha1 => ivSha1
  | .sha224 => ivSha224
  | .sha256 => ivSha256
  | .sha384 => ivSha384
  | .sha512 => ivSha512
  | .sha512_224 => derivedIv (effectiveT .sha512_224 t).toNat
  | .sha512_256 => derivedIv (effectiveT .sha512_256 t).toNat
  | .sha512t => derivedIv (effectiveT .sha512t t).toNat

end Sys2Proof.Machine
end

