-- ==== Sys2Proof/Machine/Operands.lean ====
section
/-! DEFINITION. The implicit operands of the commands (spec/30_encoding.md R91), the width conversions of the word registers
(spec/10_state.md R21) and the read-only views (R40 to R42). -/

namespace Sys2Proof.Machine

/-- `trunc_w` of every element of a word register file (00 R11, 10 R21). -/
def truncFile {n : Nat} (w : Nat) (r : Vector Reg64 n) : Vector (BitVec w) n := r.map (fun x => x.setWidth w)

/-- `zext_64` of every element (00 R11, 10 R21). -/
def zextFile {w n : Nat} (r : Vector (BitVec w) n) : Vector Reg64 n := r.map (fun x => x.setWidth 64)

/-- A digest in the DOUT register, zero from its end on (10 R28). -/
def doutOf (d : List Byte) : Vector Byte 64 := regFile 64 (fun i => d.getD i 0)

/-- The message `MemRead(MSG, 0, MSG_LEN)` (41 R161). -/
def message (s : State) : List Byte := memRead s .msg 0 s.msgLen.toNat

/-- The key `MemRead(KEY, 0, KEY_LEN)` (44 R249). -/
def keyBytes (s : State) : List Byte := memRead s .key 0 s.keyLen.toNat

/-- The digest length of the selected variant (43 R205). -/
def currentDlen (s : State) : Nat := digestLen s.variant.tag s.variant.t.toNat

/-- `NBLK` (10 R40). -/
def nblkView (s : State) : Nat :=
  if s.variant.valid then nblk (tagW s.variant.tag) s.msgLen.toNat else 0

/-- `DLEN` (10 R41). -/
def dlenView (s : State) : Nat := if s.variant.valid then currentDlen s else 0

/-- `BLKSZ` (10 R42). -/
def blkszView (s : State) : Nat := if s.variant.valid then tagB s.variant.tag else 0

/-- The host's 32-bit half of a word register: the high half at the lower address (20 R65). -/
def halfOf (x : Reg64) (low : Bool) : Word32 := if low then x.extractLsb' 0 32 else x.extractLsb' 32 32

/-- Replace one half of a word register, the other half standing (20 R65). -/
def setHalf (x : Reg64) (low : Bool) (d : Word32) : Reg64 :=
  if low then x.extractLsb' 32 32 ++ d else d ++ x.extractLsb' 0 32

/-- Four bytes as 32-bit data, the first in bits 31:24 (20 R64, R77). -/
def packBytes (b0 b1 b2 b3 : Byte) : Word32 := b0 ++ (b1 ++ (b2 ++ b3))

/-- 32-bit data as four bytes, bits 31:24 first (20 R64). -/
def unpackBytes (d : Word32) : List Byte :=
  [d.extractLsb' 24 8, d.extractLsb' 16 8, d.extractLsb' 8 8, d.extractLsb' 0 8]

end Sys2Proof.Machine
end

