-- ==== Sys2Proof/Machine/Flags.lean ====
section
/-! DEFINITION. The status flags as the host reads them (spec/10_state.md R30, R34 to R36), the interrupt output
(spec/60_exceptions.md R285) and the acceptance checks of the commands (spec/30_encoding.md R95 steps 5 to 10). -/

namespace Sys2Proof.Machine

/-- One bit of a register word. -/
def flagBit (b : Bool) : BitVec 1 := if b then 1 else 0

/-- STATUS as the host reads it (10 R34). -/
def statusWord (st : Status) : Word32 :=
  (0 : BitVec 16) ++ (st.errcode ++ ((0 : BitVec 5) ++ (flagBit st.err ++ (flagBit st.done ++ flagBit st.busy))))

/-- IEN as the host reads it (10 R35). -/
def ienWord (i : IntEnable) : Word32 := (0 : BitVec 29) ++ (flagBit i.errIe ++ (flagBit i.doneIe ++ (0 : BitVec 1)))

/-- What a host write of `data` leaves in IEN: bits 1 and 2 (10 R35). -/
def ienOf (data : Word32) : IntEnable := { doneIe := data.getLsbD 1, errIe := data.getLsbD 2 }

/-- VARIANT as the host reads it (10 R36). -/
def variantWord (v : VariantReg) : Word32 :=
  flagBit v.valid ++ ((0 : BitVec 3) ++ (v.tag.bits ++ ((0 : BitVec 14) ++ v.t)))

/-- The interrupt output (60 R285). -/
def irq (s : State) : Bool := (s.status.done && s.ien.doneIe) || (s.status.err && s.ien.errIe)

/-- E_RSVD for SETVAR: `t` must be zero unless the tag is 7 (30 R93, 60 R272). -/
def checkRsvd (tag : VariantTag) (t : BitVec 10) : Option ErrCode :=
  if tag ≠ .sha512t ∧ t ≠ 0 then some .eRsvd else none

/-- E_T for SETVAR: tag 7 needs a legal `t` (43 R223, 60 R274). -/
def checkT (tag : VariantTag) (t : BitVec 10) : Option ErrCode :=
  if tag = .sha512t ∧ tLegal t = false then some .eT else none

/-- E_NOVAR (60 R275). -/
def checkVariant (s : State) : Option ErrCode := if s.variant.valid then none else some .eNovar

/-- E_LEN for the message (60 R276). -/
def checkMsgLen (s : State) : Option ErrCode :=
  if s.params.msgCap < s.msgLen.toNat then some .eLen else none

/-- E_LEN for the key (60 R276). -/
def checkKeyLen (s : State) : Option ErrCode :=
  if s.params.keyCap < s.keyLen.toNat then some .eLen else none

/-- E_BIDX (60 R277). -/
def checkBidx (s : State) : Option ErrCode :=
  if nblkView s ≤ s.bidx.toNat then some .eBidx else none

end Sys2Proof.Machine
end

