-- ==== Sys2Proof/Machine/Blocks.lean ====
section
/-! DEFINITION. The block commands PADBLK, EXPAND, COMPRESS and BLOCK (spec/41_codec_padding.md R162, spec/42_compression.md R174, R181, R182). -/

namespace Sys2Proof.Machine

/-- Block `j` of the padded message, as BLK holds it (41 R162). -/
def paddedRegs (tag : VariantTag) (m : List Byte) (j : Nat) : Vector Reg64 16 :=
  zextFile (paddedBlock (tagW tag) m j)

/-- PADBLK's effect (41 R162). -/
def padblkEffect (s : State) : State :=
  { s with blk := paddedRegs s.variant.tag (message s) s.bidx.toNat }

/-- PADBLK (41 R162): E_NOVAR, E_LEN, E_BIDX in that order. -/
def execPadblk (s : State) : Host.Outcome State Fault Refusal :=
  command (encode .padblk) .idle [checkVariant s, checkMsgLen s, checkBidx s] padblkEffect s

/-- The schedule of the Block in `blk`, as W holds it: zero from entry `n` on (42 R174). -/
def expandRegs (tag : VariantTag) (blk : Vector Reg64 16) : Vector Reg64 80 :=
  let S := expand (tagAlgo tag) (truncFile (tagW tag) blk)
  regFile 80 (fun i => if i < tagN tag then (S.getD i 0).setWidth 64 else 0)

/-- EXPAND's effect (42 R174). -/
def expandEffect (s : State) : State := { s with w := expandRegs s.variant.tag s.blk }

/-- EXPAND (42 R174). -/
def execExpand (s : State) : Host.Outcome State Fault Refusal :=
  command (encode .expand) .uCOPY [checkVariant s] expandEffect s

/-- The first `n` schedule Words held in W (42 R181). -/
def scheduleOf (tag : VariantTag) (w : Vector Reg64 80) : List (BitVec (tagW tag)) :=
  (w.toList.take (tagN tag)).map (fun x => x.setWidth (tagW tag))

/-- H after one compression with the schedule in W; the Words from `sw` on stand (42 R181). -/
def compressRegs (tag : VariantTag) (h : Vector Reg64 8) (w : Vector Reg64 80) : Vector Reg64 8 :=
  let out := compress (tagAlgo tag) (truncFile (tagW tag) h) (scheduleOf tag w)
  Vector.ofFn (fun (i : Fin 8) => if i.val < tagSw tag then out[i].setWidth 64 else h[i])

/-- COMPRESS's effect (42 R181). -/
def compressEffect (s : State) : State :=
  { s with h := compressRegs s.variant.tag s.h s.w, v := zeros 8 64 }

/-- COMPRESS (42 R181). -/
def execCompress (s : State) : Host.Outcome State Fault Refusal :=
  command (encode .compress) .uLOAD [checkVariant s] compressEffect s

/-- BLOCK's effect (42 R182): EXPAND's, then COMPRESS's. -/
def blockEffect (s : State) : State := compressEffect (expandEffect s)

/-- BLOCK (42 R182). -/
def execBlock (s : State) : Host.Outcome State Fault Refusal :=
  command (encode .block) .uCOPY [checkVariant s] blockEffect s

end Sys2Proof.Machine
end

