-- ==== Sys2Proof/Machine/Control.lean ====
section
/-! DEFINITION. The control commands NOP and CLEAR (spec/45_control.md R260, R261). -/

namespace Sys2Proof.Machine

/-- CLEAR's effect (45 R261): the data registers scrubbed, H at the IV. -/
def clearEffect (s : State) : State :=
  { s with
    blk := zeros 16 64, w := zeros 80 64, v := zeros 8 64, k0 := zeros 128 8, dout := zeros 64 8
    h := s.ivr }

/-- NOP (45 R260): the life cycle and nothing else. -/
def execNop (s : State) : Host.Outcome State Fault Refusal :=
  command (encode .nop) .idle [] (fun s => s) s

/-- CLEAR (45 R261); it needs no variant. -/
def execClear (s : State) : Host.Outcome State Fault Refusal :=
  command (encode .clear) .idle [] clearEffect s

end Sys2Proof.Machine
end

