-- ==== Sys2Proof/Machine/Hashing.lean ====
section
/-! DEFINITION. The whole-message commands HASH and HMAC (spec/44_hash_hmac.md R241, R249). -/

namespace Sys2Proof.Machine

/-- `Hash(m)` under the selected variant (44 R240). -/
def hashOf (s : State) (m : List Byte) : List Byte :=
  hashBytes (tagAlgo s.variant.tag) (truncFile (tagW s.variant.tag) s.ivr) (currentDlen s) m

/-- `Hmac(key, m)` under the selected variant (44 R245). -/
def hmacOf (s : State) (key m : List Byte) : List Byte :=
  hmacBytes (tagAlgo s.variant.tag) (truncFile (tagW s.variant.tag) s.ivr) (currentDlen s) key m

/-- The wipe at the end of HASH and HMAC (44 R241, R243). -/
def wipe (s : State) : State :=
  { s with h := s.ivr, blk := zeros 16 64, w := zeros 80 64, v := zeros 8 64 }

/-- HASH's effect (44 R241). -/
def hashEffect (s : State) : State := wipe { s with dout := doutOf (hashOf s (message s)) }

/-- HASH (44 R241): E_NOVAR, then E_LEN. -/
def execHash (s : State) : Host.Outcome State Fault Refusal :=
  command (encode .hash) .uINIT [checkVariant s, checkMsgLen s] hashEffect s

/-- HMAC's effect (44 R249, R251). -/
def hmacEffect (s : State) : State :=
  wipe { s with dout := doutOf (hmacOf s (keyBytes s) (message s)), k0 := zeros 128 8 }

/-- HMAC (44 R249): E_NOVAR, then E_LEN for the message, then E_LEN for the key. -/
def execHmac (s : State) : Host.Outcome State Fault Refusal :=
  command (encode .hmac) .uKEY [checkVariant s, checkMsgLen s, checkKeyLen s] hmacEffect s

end Sys2Proof.Machine
end

