-- ==== Sys2Proof/Machine/Variant.lean ====
section
/-! DEFINITION. The variant commands SETVAR, INIT and OUTPUT (spec/43_variants.md R220 to R231). -/

namespace Sys2Proof.Machine

/-- SETVAR's effect (43 R220): VARIANT, IVR and H loaded, the data registers zeroed. -/
def setvarEffect (tag : VariantTag) (t : BitVec 10) (s : State) : State :=
  { s with
    variant := { valid := true, tag := tag, t := effectiveT tag t }
    ivr := variantIv tag t
    h := variantIv tag t
    blk := zeros 16 64, w := zeros 80 64, v := zeros 8 64, k0 := zeros 128 8, dout := zeros 64 8 }

/-- The first micro-operation of SETVAR: the bootstrap for tags 5 to 7 (43 R222, R224), none named for the ROM IVs (R221). -/
def setvarStage : VariantTag → Stage
  | .sha1 => .idle
  | .sha224 => .idle
  | .sha256 => .idle
  | .sha384 => .idle
  | .sha512 => .idle
  | .sha512_224 => .uBOOT0
  | .sha512_256 => .uBOOT0
  | .sha512t => .uBOOT0

/-- SETVAR (43 R220): E_RSVD, then E_T; E_VARIANT is the decoder's (30 R95 step 4). It needs no variant. -/
def execSetvar (tag : VariantTag) (t : BitVec 10) (s : State) : Host.Outcome State Fault Refusal :=
  command (encode (.setvar tag t)) (setvarStage tag) [checkRsvd tag t, checkT tag t] (setvarEffect tag t) s

/-- INIT's effect (43 R226). -/
def initEffect (s : State) : State := { s with h := s.ivr }

/-- INIT (43 R226). -/
def execInit (s : State) : Host.Outcome State Fault Refusal :=
  command (encode .init) .idle [checkVariant s] initEffect s

/-- The digest of the State in `h` (43 R230, R231). -/
def outputOf (tag : VariantTag) (dlen : Nat) (h : Vector Reg64 8) : List Byte :=
  outputBytes (tagAlgo tag) dlen (truncFile (tagW tag) h)

/-- OUTPUT's effect (43 R231): H serialised into DOUT. -/
def outputEffect (s : State) : State :=
  { s with dout := doutOf (outputOf s.variant.tag (currentDlen s) s.h) }

/-- OUTPUT (43 R231). -/
def execOutput (s : State) : Host.Outcome State Fault Refusal :=
  command (encode .output) .idle [checkVariant s] outputEffect s

end Sys2Proof.Machine
end

