-- ==== Sys2Proof/Machine/Dispatch.lean ====
section
/-! DEFINITION. One arm per command (spec/30_encoding.md R92). -/

namespace Sys2Proof.Machine

def exec (i : Instr) (s : State) : Host.Outcome State Fault Refusal :=
  match i with
  | .nop => Sys2Proof.Machine.execNop s
  | .setvar tag t => Sys2Proof.Machine.execSetvar tag t s
  | .init => Sys2Proof.Machine.execInit s
  | .padblk => Sys2Proof.Machine.execPadblk s
  | .expand => Sys2Proof.Machine.execExpand s
  | .compress => Sys2Proof.Machine.execCompress s
  | .block => Sys2Proof.Machine.execBlock s
  | .output => Sys2Proof.Machine.execOutput s
  | .hash => Sys2Proof.Machine.execHash s
  | .hmac => Sys2Proof.Machine.execHmac s
  | .clear => Sys2Proof.Machine.execClear s

end Sys2Proof.Machine
end

