-- ==== Sys2Proof/Machine/Port.lean ====
section
/-! DEFINITION. The host port (spec/20_memory.md R60 to R77), the issue of a command word (spec/30_encoding.md R95) and the engine's turn
(spec/00_scope.md R9). -/

namespace Sys2Proof.Machine

/-- The control registers and views of the register block (10 R31). -/
inductive CtrlReg where
  | id | cmd | status | ien | variant | msgLen | keyLen | bidx | nblk | dlen | blksz | msgCapR | keyCapR
  deriving DecidableEq, Repr

/-- What a mapped host address names (10 R31, 20 R62): a control register, a half of a word register, a word of DOUT,
or a byte address of a window. `low` is the half at the higher address (20 R65). -/
inductive Target where
  | ctrl (r : CtrlReg)
  | hHalf (i : Fin 8) (low : Bool)
  | doutWord (i : Fin 16)
  | blkHalf (i : Fin 16) (low : Bool)
  | wHalf (i : Fin 80) (low : Bool)
  | window (sp : Space) (a : Nat)
  deriving DecidableEq, Repr

/-- The control registers by offset (10 R31). -/
def ctrlAt (a : Nat) : Option CtrlReg :=
  match a with
  | 0x000 => some .id
  | 0x004 => some .cmd
  | 0x008 => some .status
  | 0x00C => some .ien
  | 0x010 => some .variant
  | 0x014 => some .msgLen
  | 0x018 => some .keyLen
  | 0x01C => some .bidx
  | 0x020 => some .nblk
  | 0x024 => some .dlen
  | 0x028 => some .blksz
  | 0x02C => some .msgCapR
  | 0x030 => some .keyCapR
  | _ => none

/-- The register an aligned offset below 0x1000 names (10 R31, R65 of 20). -/
def registerAt (a : Nat) : Option Target :=
  if a < 0x100 then (ctrlAt a).map .ctrl
  else if h : a < 0x140 then some (.hHalf ⟨(a - 0x100) / 8, by omega⟩ (a / 4 % 2 == 1))
  else if h : a < 0x180 then some (.doutWord ⟨(a - 0x140) / 4, by omega⟩)
  else if h : a < 0x200 then some (.blkHalf ⟨(a - 0x180) / 8, by omega⟩ (a / 4 % 2 == 1))
  else if h : a < 0x480 then some (.wHalf ⟨(a - 0x200) / 8, by omega⟩ (a / 4 % 2 == 1))
  else none

/-- The window byte a host address names, for an access of `size` bytes that must end inside the window (20 R62, R67). -/
def windowAt (p : Config.Params) (a size : Nat) : Option Target :=
  if 0x1000 ≤ a ∧ a + size ≤ 0x1000 + p.keyCap then some (.window .key (a - 0x1000))
  else if 0x1000000 ≤ a ∧ a + size ≤ 0x1000000 + p.msgCap then some (.window .msg (a - 0x1000000))
  else none

/-- What a 4-byte transaction at `addr` reaches; none is BUSERR (20 R62, R66, R67). -/
def target4 (p : Config.Params) (addr : HostAddr) : Option Target :=
  if addr.toNat % 4 ≠ 0 then none
  else if addr.toNat < 0x1000 then registerAt addr.toNat
  else windowAt p addr.toNat 4

/-- What a 1-byte transaction at `addr` reaches; a register takes none (20 R63, R67). -/
def target1 (p : Config.Params) (addr : HostAddr) : Option Target :=
  if addr.toNat < 0x1000 then none else windowAt p addr.toNat 1

/-- The value of a control register or view (10 R32 to R44). -/
def readCtrl (s : State) : CtrlReg → Word32
  | .id => 0x53484145
  | .cmd => s.cmd
  | .status => statusWord s.status
  | .ien => ienWord s.ien
  | .variant => variantWord s.variant
  | .msgLen => s.msgLen
  | .keyLen => s.keyLen
  | .bidx => s.bidx
  | .nblk => BitVec.ofNat 32 (nblkView s)
  | .dlen => BitVec.ofNat 32 (dlenView s)
  | .blksz => BitVec.ofNat 32 (blkszView s)
  | .msgCapR => BitVec.ofNat 32 s.params.msgCap
  | .keyCapR => BitVec.ofNat 32 s.params.keyCap

/-- Word `i` of DOUT, byte `4i` in bits 31:24 (20 R77). -/
def doutWord (d : Vector Byte 64) (i : Fin 16) : Word32 :=
  packBytes d[4 * i.val] d[4 * i.val + 1] d[4 * i.val + 2] d[4 * i.val + 3]

/-- The data a 4-byte read of a target returns; data registers and windows read 0 while BUSY = 1 (20 R70). -/
def read4 (s : State) : Target → Word32
  | .ctrl r => readCtrl s r
  | .hHalf i low => if s.status.busy then 0 else halfOf s.h[i] low
  | .doutWord i => if s.status.busy then 0 else doutWord s.dout i
  | .blkHalf i low => if s.status.busy then 0 else halfOf s.blk[i] low
  | .wHalf i low => if s.status.busy then 0 else halfOf s.w[i] low
  | .window sp a =>
    if s.status.busy then 0
    else packBytes (readByte s sp a) (readByte s sp (a + 1)) (readByte s sp (a + 2)) (readByte s sp (a + 3))

/-- The data a 1-byte read of a target returns, in bits 7:0 (20 R64); only windows take one. -/
def read1 (s : State) : Target → Word32
  | .window sp a => if s.status.busy then 0 else (readByte s sp a).setWidth 32
  | .ctrl _ => 0
  | .hHalf _ _ => 0
  | .doutWord _ => 0
  | .blkHalf _ _ => 0
  | .wHalf _ _ => 0

/-- The issue of word `c` while BUSY = 0 (30 R95 steps 2 to 11): ignored while ERR = 1, a decode error taken, else the command runs. -/
def issue (c : Word32) (s : State) : Host.Outcome State Fault Refusal :=
  if s.status.err then .next s
  else
    match decode c with
    | .error e => .next (errorEntry e s)
    | .ok i => exec i s

/-- A host write to a control register while BUSY = 0, STATUS and IEN apart; read-only registers ignore it (20 R69). -/
def writeCtrl (s : State) (r : CtrlReg) (d : Word32) : Host.Outcome State Fault Refusal :=
  match r with
  | .cmd => issue d s
  | .msgLen => .next { s with msgLen := d }
  | .keyLen => .next { s with keyLen := d }
  | .bidx => .next { s with bidx := d }
  | .id => .next s
  | .status => .next s
  | .ien => .next s
  | .variant => .next s
  | .nblk => .next s
  | .dlen => .next s
  | .blksz => .next s
  | .msgCapR => .next s
  | .keyCapR => .next s

/-- A host write of bytes to a window, or of a word to any other target, while BUSY = 0 (20 R64, R65, R69). -/
def writeIdle (s : State) (t : Target) (d : Word32) (bs : List Byte) : Host.Outcome State Fault Refusal :=
  match t with
  | .ctrl r => writeCtrl s r d
  | .blkHalf i low => .next { s with blk := s.blk.set i (setHalf s.blk[i] low d) }
  | .window sp a => .next (memStore s sp a bs)
  | .hHalf _ _ => .next s
  | .doutWord _ => .next s
  | .wHalf _ _ => .next s

/-- A host write to a mapped target: STATUS and IEN always act (10 R34, R35); while BUSY = 1 any other write is dropped
with the error E_BUSY (20 R71, 60 R279). `bs` are the bytes a window gets. -/
def writeTarget (s : State) (t : Target) (d : Word32) (bs : List Byte) : Host.Outcome State Fault Refusal :=
  if t = .ctrl .status then .next (acknowledge d s)
  else if t = .ctrl .ien then .next { s with ien := ienOf d }
  else if s.status.busy then .next (errorEntry .eBusy s)
  else writeIdle s t d bs

/-- A write transaction: BUSERR changes nothing but the answer (20 R60, R67). -/
def hostWrite (s : State) (target : Option Target) (d : Word32) (bs : List Byte) : Host.Outcome State Fault Refusal :=
  match target with
  | none => .next (withReply (.write .busErr) s)
  | some t => mapNext (withReply (.write .ok)) (writeTarget s t d bs)

/-- A read transaction: no side effect (20 R68); BUSERR returns 0 (R60). -/
def hostRead (s : State) (target : Option Target) (read : State → Target → Word32) : Host.Outcome State Fault Refusal :=
  match target with
  | none => .next (withReply (.read 0 .busErr) s)
  | some t => .next (withReply (.read (read s t) .ok) s)

/-- The engine's turn: a command in flight completes (00 R9); an idle engine does nothing (70 R301). -/
def engineTurn (s : State) : Host.Outcome State Fault Refusal :=
  if s.status.busy then
    match decode s.cmd with
    | .ok i => exec i s
    | .error _ => .fault .noCommandInFlight
  else .next s

/-- What event `e` does to a state (00 R8). -/
def perform (e : Event) (s : State) : Host.Outcome State Fault Refusal :=
  match e with
  | .wr32 a d => hostWrite s (target4 s.params a) d (unpackBytes d)
  | .wr8 a b => hostWrite s (target1 s.params a) (b.setWidth 32) [b]
  | .rd32 a => hostRead s (target4 s.params a) read4
  | .rd8 a => hostRead s (target1 s.params a) read1
  | .reset => .next (hardReset s)
  | .powerUp => .next (powerUp s)
  | .engine => engineTurn s

/-- One step: the next event, or the engine's turn when nothing else is to happen (70 R312, fairness; log entry 2). -/
def advance (s : State) : Host.Outcome State Fault Refusal :=
  match s.events with
  | [] => engineTurn s
  | e :: es => perform e (withEvents es s)

/-- The command word of `nbits` bits with value `w`, to be written to CMD next (30 R97; log entry 7). -/
def placeCommand (s : State) (nbits w : Nat) : State :=
  withEvents (.wr32 0x004 (BitVec.ofNat 32 (w % 2 ^ nbits)) :: s.events) s

end Sys2Proof.Machine
end

