-- ==== Sys2Proof/Machine/Step.lean ====
section
/-! DEFINITION. The step of the machine and the placing of a command word where the step takes its next instruction from. -/

namespace Sys2Proof.Machine

/-- One step (00 R8, R9; 45 R262). -/
def step (s : State) : Host.Outcome State Fault Refusal := advance s

/-- `s` with the command word as the host's next write to CMD (log entry 7). -/
def State.withFetchWord (s : State) (nbits w : Nat) : State := placeCommand s nbits w

end Sys2Proof.Machine
end

