-- ==== Sys2Proof/Machine/Script.lean ====
section
/-! DEFINITION. Host scripts (spec/30_encoding.md R98 to R100): the primitive actions, the pseudo-actions with their expansions, and how a
script runs. The machine does not depend on this file; it is the host's side, for claims about sequences of transactions.
A script's actions are steps of the machine. Where the engine's turn falls among the polls of a WAIT is not the host's to say
(70 R312; log entry 2): a WAIT carries it as a list of Booleans, and claims hold for every list.
DESIGN CHOICE (log entry 16): a script gives the engine a turn only inside a WAIT. -/

namespace Sys2Proof.Machine

/-! ## Expansions into transactions (R100) -/

/-- A command: its word written to CMD (30 R100). -/
def scriptCommand (i : Instr) : Event := .wr32 0x004 (encode i)

/-- A poll of STATUS (30 R100). -/
def scriptPoll : Event := .rd32 0x008

/-- The byte writes of a load at host address `base` (30 R100). -/
def scriptBytes (base : Nat) : List Byte → List Event
  | [] => []
  | b :: bs => .wr8 (BitVec.ofNat 25 base) b :: scriptBytes (base + 1) bs

/-- LOADMSG (30 R100). -/
def scriptLoadMsg (m : List Byte) : List Event := scriptBytes 0x1000000 m ++ [.wr32 0x014 (BitVec.ofNat 32 m.length)]

/-- LOADKEY (30 R100). -/
def scriptLoadKey (k : List Byte) : List Event := scriptBytes 0x1000 k ++ [.wr32 0x018 (BitVec.ofNat 32 k.length)]

/-- LOADBLK (30 R100). -/
def scriptLoadBlk (x : Vector Reg64 16) : List Event :=
  (List.range 16).flatMap (fun i =>
    [.wr32 (BitVec.ofNat 25 (0x180 + 8 * i)) (halfOf (x.toList.getD i 0) false),
     .wr32 (BitVec.ofNat 25 (0x184 + 8 * i)) (halfOf (x.toList.getD i 0) true)])

/-- CLRERR (30 R100). -/
def scriptClrErr : Event := .wr32 0x008 0x00000004

/-- CLRDONE (30 R100). -/
def scriptClrDone : Event := .wr32 0x008 0x00000002

/-- The addresses GETDIGEST reads for a digest of `dlen` bytes (30 R100). -/
def digestAddrs (dlen : Nat) : List HostAddr :=
  (List.range ((dlen + 3) / 4)).map (fun i => BitVec.ofNat 25 (0x140 + 4 * i))

/-! ## Running -/

/-- One action is one step, taken before whatever else is to happen; none where the machine stops. -/
def act (e : Event) (s : State) : Option State :=
  match step (withEvents (e :: s.events) s) with
  | .next t => some t
  | .fault _ => none
  | .refused _ => none

/-- Actions in order (30 R99). -/
def actAll : List Event → State → Option State
  | [], s => some s
  | e :: es, s => (act e s).bind (actAll es)

/-- The data of the port's last answer, as a host takes it (20 R60). -/
def replyData : Reply → Word32
  | .read d _ => d
  | .write _ => 0
  | .none => 0

/-- A poll, and what WAIT does after it: end when `s[0] = 0`, else go on (30 R100). -/
def pollThen (goOn : State → Option State) (s : State) : Option State :=
  (act scriptPoll s).bind (fun t => if (replyData t.reply).getLsbD 0 then goOn t else some t)

/-- WAIT (30 R100). `turns` says before which polls the engine has its turn; none if the last poll of the list still reads BUSY = 1. -/
def waitRun : List Bool → State → Option State
  | [], s => pollThen (fun _ => none) s
  | false :: turns, s => pollThen (waitRun turns) s
  | true :: turns, s => (act .engine s).bind (pollThen (waitRun turns))

/-- 4-byte reads in order, with the words they return (30 R99). -/
def readWords : List HostAddr → State → Option (State × List Word32)
  | [], s => some (s, [])
  | a :: as, s =>
    (act (.rd32 a) s).bind (fun t => (readWords as t).map (fun r => (r.1, replyData t.reply :: r.2)))

/-- GETDIGEST (30 R100): the words of DOUT, and of their bytes the first `DLEN`. -/
def getDigest (s : State) : Option (State × List Byte) :=
  (readWords (digestAddrs (dlenView s)) s).map (fun r => (r.1, (r.2.flatMap unpackBytes).take (dlenView s)))

/-- A line of a host script: the primitive actions (30 R99) and the pseudo-actions (R100). -/
inductive HostAction where
  | wr32 (addr : HostAddr) (data : Word32)
  | wr8 (addr : HostAddr) (data : Byte)
  | rd32 (addr : HostAddr)
  | rd8 (addr : HostAddr)
  | reset
  | command (i : Instr)
  | wait (turns : List Bool)
  | doCommand (i : Instr) (turns : List Bool)
  | loadMsg (m : List Byte)
  | loadKey (k : List Byte)
  | loadBlk (x : Vector Reg64 16)
  | clrErr
  | clrDone
  | getDigest
  deriving DecidableEq, Repr

/-- What a line gives the host: a read its data and response, GETDIGEST the digest (30 R99, R100). -/
inductive HostValue where
  | read (answer : Reply)
  | digest (d : List Byte)
  deriving DecidableEq, Repr

/-- Actions that give the host no value. -/
def silent (o : Option State) : Option (State × List HostValue) := o.map (fun t => (t, []))

/-- A read action, with what it returns. -/
def reading (o : Option State) : Option (State × List HostValue) :=
  o.map (fun t => (t, [.read t.reply]))

/-- One line of a script (30 R99, R100). -/
def runAction (a : HostAction) (s : State) : Option (State × List HostValue) :=
  match a with
  | .wr32 addr d => silent (act (.wr32 addr d) s)
  | .wr8 addr b => silent (act (.wr8 addr b) s)
  | .rd32 addr => reading (act (.rd32 addr) s)
  | .rd8 addr => reading (act (.rd8 addr) s)
  | .reset => silent (act .reset s)
  | .command i => silent (act (scriptCommand i) s)
  | .wait turns => silent (waitRun turns s)
  | .doCommand i turns => silent ((act (scriptCommand i) s).bind (waitRun turns))
  | .loadMsg m => silent (actAll (scriptLoadMsg m) s)
  | .loadKey k => silent (actAll (scriptLoadKey k) s)
  | .loadBlk x => silent (actAll (scriptLoadBlk x) s)
  | .clrErr => silent (act scriptClrErr s)
  | .clrDone => silent (act scriptClrDone s)
  | .getDigest => (getDigest s).map (fun r => (r.1, [.digest r.2]))

/-- A script: its lines in order, with the values they give the host (30 R99).
DESIGN CHOICE (log entry 16): whether a command in flight completes between two lines that are no WAIT is open (70 R312); here it does
not, the engine having its turn only inside a WAIT. -/
def runScript : List HostAction → State → Option (State × List HostValue)
  | [], s => some (s, [])
  | a :: as, s =>
    (runAction a s).bind (fun r => (runScript as r.1).map (fun q => (q.1, r.2 ++ q.2)))

end Sys2Proof.Machine
end

