-- ==== Sys2Proof/Machine/Sequencer.lean ====
section
/-! DEFINITION. The sequencer's view of the commands: the micro-operations of spec/42_compression.md R183, spec/44_hash_hmac.md R242
and R250, and spec/43_variants.md R224, each advancing SEQ (spec/10_state.md R29). It is a second, finer description of the effects that
`exec` applies whole (spec/00_scope.md R9 lets a model do so); `step` does not use it. Log entries 8, 9, 10 and 15.
A micro-operation works on the registers that hold the command's operands; the working set is hidden until completion. -/

namespace Sys2Proof.Machine

/-- The variant whose width, rounds and constants a command's micro-operations use: SHA-512's machinery in SETVAR's bootstrap
(43 R224), the selected variant's otherwise (log entry 10). -/
def activeTag (i : Instr) (s : State) : VariantTag :=
  match i with
  | .setvar _ _ => .sha512
  | .nop => s.variant.tag
  | .init => s.variant.tag
  | .padblk => s.variant.tag
  | .expand => s.variant.tag
  | .compress => s.variant.tag
  | .block => s.variant.tag
  | .output => s.variant.tag
  | .hash => s.variant.tag
  | .hmac => s.variant.tag
  | .clear => s.variant.tag

/-- Move SEQ to stage `st` with index `t`, `j` standing (10 R29). DESIGN CHOICE (log entry 15): where the micro-operation left writes no
`t` in its row, the model passes 0. -/
def seqTo (st : Stage) (t : Nat) (s : State) : State :=
  { s with seq := { stage := st, j := s.seq.j, t := BitVec.ofNat 7 t } }

/-- `uCOPY` (42 R183). -/
def microCopy (tag : VariantTag) (s : State) : State :=
  seqTo .uSCHED 16
    { s with w := Vector.ofFn (fun (i : Fin 80) =>
        if h : i.val < 16 then (s.blk[i.val].setWidth (tagW tag)).setWidth 64 else s.w[i]) }

/-- W as the list of its truncated Words. -/
def truncW (tag : VariantTag) (s : State) : List (BitVec (tagW tag)) := s.w.toList.map (fun x => x.setWidth (tagW tag))

/-- `uSCHED` at `t` (42 R183, R172, R173). -/
def microSched (tag : VariantTag) (s : State) : State :=
  let t := s.seq.t.toNat
  let x := (scheduleWord (tagFamily tag) (truncW tag s) t).setWidth 64
  seqTo (if t + 1 < tagN tag then .uSCHED else .uZERO) (t + 1)
    { s with w := Vector.ofFn (fun (i : Fin 80) => if i.val = t then x else s.w[i]) }

/-- `uZERO` (42 R183): the end of EXPAND, or on to `uLOAD`.
DESIGN CHOICE (log entry 15): R183 gives uZERO no write of `t`; the model sets it to 0 on the way to `uLOAD`, which itself does so. -/
def microZero (i : Instr) (tag : VariantTag) (s : State) : State :=
  let s' := { s with w := Vector.ofFn (fun (k : Fin 80) => if k.val < tagN tag then s.w[k] else 0) }
  if i = .expand then finish s' else seqTo .uLOAD 0 s'

/-- `uLOAD` (42 R183, R175). -/
def microLoad (tag : VariantTag) (s : State) : State :=
  seqTo .uROUND 0
    { s with v := Vector.ofFn (fun (i : Fin 8) =>
        if i.val < tagSw tag then (s.h[i].setWidth (tagW tag)).setWidth 64 else s.v[i]) }

/-- `uROUND` at `t` (42 R183, R176, R177). -/
def microRound (tag : VariantTag) (s : State) : State :=
  let t := s.seq.t.toNat
  seqTo (if t + 1 < tagN tag then .uROUND else .uFEED) (t + 1)
    { s with v := zextFile (roundFn (tagAlgo tag) t (truncFile (tagW tag) s.v) ((truncW tag s).getD t 0)) }

/-- `uFEED` (42 R183, R179), before the move to the next stage. -/
def microFeed (tag : VariantTag) (s : State) : State :=
  { s with
    h := Vector.ofFn (fun (i : Fin 8) =>
      if i.val < tagSw tag then (s.h[i].setWidth (tagW tag) + s.v[i].setWidth (tagW tag)).setWidth 64 else s.h[i])
    v := zeros 8 64 }

/-- Where the sequencer goes after `uFEED`: HASH takes the next Block or its output (44 R242), SETVAR its last stage (43 R224),
COMPRESS and BLOCK end (42 R183).
DESIGN CHOICE (log entry 15): R183 gives uFEED no write of `t`; the model sets it to 0 on the way to the next stage. -/
def afterFeed (i : Instr) (s : State) : State :=
  match i with
  | .hash =>
    let j := s.seq.j + 1
    if j.toNat < nblkView s then { s with seq := { stage := .uFETCH, j := j, t := 0 } }
    else { s with seq := { stage := .uOUT, j := j, t := 0 } }
  | .setvar _ _ => seqTo .uBOOT1 0 s
  | .compress => finish s
  | .block => finish s
  | .nop => finish s
  | .init => finish s
  | .padblk => finish s
  | .expand => finish s
  | .output => finish s
  | .hmac => finish s
  | .clear => finish s

/-- The loop of HASH over the byte string `m`, without its output and wipe (44 R242, R250). -/
def hashLoop (m : List Byte) (s : State) : State :=
  (List.range (nblk (tagW s.variant.tag) m.length)).foldl
    (fun s' j => blockEffect { s' with blk := paddedRegs s.variant.tag m j }) { s with h := s.ivr }

/-- The digest of H under the selected variant (43 R230). -/
def digestOfH (s : State) : List Byte := outputOf s.variant.tag (currentDlen s) s.h

/-- `uKEY` (44 R250). -/
def microKey (s : State) : State :=
  let s' := if s.keyLen.toNat > tagB s.variant.tag then hashLoop (keyBytes s) s else s
  let k1 := if s.keyLen.toNat > tagB s.variant.tag then digestOfH s' else keyBytes s
  seqTo .uINNER 0 { s' with k0 := regFile 128 (fun i => k1.getD i 0) }

/-- The first `B` bytes of K0, each XORed with `x` (44 R247, R250). -/
def k0Pad (x : Byte) (s : State) : List Byte := (s.k0.toList.take (tagB s.variant.tag)).map (fun b => b ^^^ x)

/-- `uINNER` (44 R250): the inner digest held in DOUT. -/
def microInner (s : State) : State :=
  let s' := hashLoop (k0Pad 0x36 s ++ message s) s
  seqTo .uOUTER 0 { s' with dout := doutOf (digestOfH s') }

/-- `uOUTER` (44 R250). -/
def microOuter (s : State) : State :=
  let s' := hashLoop (k0Pad 0x5C s ++ s.dout.toList.take (currentDlen s)) s
  seqTo .uWIPE 0 { s' with dout := doutOf (digestOfH s') }

/-- `uWIPE` (44 R242, R250): the end of HASH and HMAC. HMAC's also zeroes K0. -/
def microWipe (i : Instr) (s : State) : State :=
  finish (wipe (if i = .hmac then { s with k0 := zeros 128 8 } else s))

/-- `uBOOT0` (43 R224): the modified IV in H, the label's Block in BLK. -/
def microBoot0 (tag : VariantTag) (t : BitVec 10) (s : State) : State :=
  seqTo .uCOPY 0
    { s with h := bootIv, blk := zextFile (paddedBlock 64 (bootLabel (effectiveT tag t).toNat) 0) }

/-- `uBOOT1` (43 R224): IVR loaded from H; then SETVAR completes as 43 R220 says. -/
def microBoot1 (tag : VariantTag) (t : BitVec 10) (s : State) : State :=
  finish { s with
    variant := { valid := true, tag := tag, t := effectiveT tag t }
    ivr := s.h
    blk := zeros 16 64, w := zeros 80 64, v := zeros 8 64, k0 := zeros 128 8, dout := zeros 64 8 }

/-- The operands of SETVAR, for the two bootstrap stages, which no other command enters. -/
def bootOp (f : VariantTag → BitVec 10 → State → State) (i : Instr) (s : State) : State :=
  match i with
  | .setvar tag t => f tag t s
  | .nop => s
  | .init => s
  | .padblk => s
  | .expand => s
  | .compress => s
  | .block => s
  | .output => s
  | .hash => s
  | .hmac => s
  | .clear => s

/-- The micro-operation SEQ names, for command `i` in flight. -/
def microOp (i : Instr) (s : State) : State :=
  match s.seq.stage with
  | .idle => s
  | .uCOPY => microCopy (activeTag i s) s
  | .uSCHED => microSched (activeTag i s) s
  | .uZERO => microZero i (activeTag i s) s
  | .uLOAD => microLoad (activeTag i s) s
  | .uROUND => microRound (activeTag i s) s
  | .uFEED => afterFeed i (microFeed (activeTag i s) s)
  | .uINIT => { s with h := s.ivr, seq := { stage := .uFETCH, j := 0, t := 0 } }
  | .uFETCH => seqTo .uCOPY 0 { s with blk := paddedRegs s.variant.tag (message s) s.seq.j.toNat }
  | .uOUT => seqTo .uWIPE 0 { s with dout := doutOf (digestOfH s) }
  | .uWIPE => microWipe i s
  | .uKEY => microKey s
  | .uINNER => microInner s
  | .uOUTER => microOuter s
  | .uBOOT0 => bootOp microBoot0 i s
  | .uBOOT1 => bootOp microBoot1 i s

/-- `k` micro-operations of command `i`. -/
def microRun (i : Instr) : Nat → State → State
  | 0, s => s
  | k + 1, s => microRun i k (microOp i s)

end Sys2Proof.Machine
end

