-- ==== Sys2Proof/Safety.lean ====
section
/-! DEFINITION. What a good state is, in the terms the claims use: the invariants of spec/10_state.md R49 and those that hold beside them. -/

namespace Sys2Proof.Safety

open Sys2Proof.Machine

/-- Bits 63:32 of every element are zero (10 R49 b). -/
def HighZero {n : Nat} (r : Vector Reg64 n) : Prop := ∀ i : Fin n, r[i].toNat < 2 ^ 32

/-- The elements from `k` on are zero. -/
def ZeroFrom {n m : Nat} (k : Nat) (r : Vector (BitVec m) n) : Prop := ∀ i : Fin n, k ≤ i.val → r[i] = 0

/-- 10 R49 (a): without a variant the data registers but BLK are zero. -/
def NoVariantZero (s : State) : Prop :=
  s.variant.valid = false →
    s.h = zeros 8 64 ∧ s.ivr = zeros 8 64 ∧ s.w = zeros 80 64 ∧ s.v = zeros 8 64 ∧ s.dout = zeros 64 8 ∧ s.k0 = zeros 128 8

/-- 10 R49 (b): in a 32-bit variant bits 63:32 of H, IVR, W and V are zero. -/
def NarrowWords (s : State) : Prop :=
  s.variant.valid = true → tagW s.variant.tag = 32 → HighZero s.h ∧ HighZero s.ivr ∧ HighZero s.w ∧ HighZero s.v

/-- 10 R49 (c): SHA-1 uses five words. -/
def Sha1Words (s : State) : Prop :=
  s.variant.valid = true → tagFamily s.variant.tag = .sha1 → ZeroFrom 5 s.h ∧ ZeroFrom 5 s.ivr ∧ ZeroFrom 5 s.v

/-- 10 R49 (d): a 64-round schedule leaves W[64..79] zero. -/
def ShortSchedule (s : State) : Prop :=
  s.variant.valid = true → tagN s.variant.tag = 64 → ZeroFrom 64 s.w

/-- 10 R49 (e): DOUT is zero from DLEN on. -/
def DigestTail (s : State) : Prop := s.variant.valid = true → ZeroFrom (currentDlen s) s.dout

/-- 10 R49 (f): the hidden registers. In this model V and K0 are zero at every step, since a command's effect is applied whole
(00 R9; log entry 8), and SEQ is idle whenever BUSY = 0. -/
def IdleHidden (s : State) : Prop :=
  s.v = zeros 8 64 ∧ s.k0 = zeros 128 8 ∧ (s.status.busy = false → s.seq = seqIdle)

/-- H after the Blocks `bs` from the IV, as the registers hold it (10 R49 g). -/
def chainFrom (tag : VariantTag) (iv : Vector Reg64 8) (bs : List (Vector Reg64 16)) : Vector Reg64 8 :=
  bs.foldl (fun h b => compressRegs tag h (expandRegs tag b)) iv

/-- 10 R49 (g), with what W holds: H is the IV followed by compressions of Blocks, W the schedule of some Block. -/
def HashChain (s : State) : Prop :=
  s.variant.valid = true →
    (∃ bs, s.h = chainFrom s.variant.tag s.ivr bs) ∧ (∃ b, s.w = expandRegs s.variant.tag b)

/-- 10 R26, R36: VARIANT names a constructible variant and IVR holds its IV. -/
def VariantGood (s : State) : Prop :=
  s.variant.valid = true →
    (s.variant.tag = .sha512t → tLegal s.variant.t = true) ∧
    s.variant.t = effectiveT s.variant.tag s.variant.t ∧
    s.ivr = variantIv s.variant.tag s.variant.t

/-- The commands that need a variant (30 R92). -/
def needsVariant : Instr → Bool
  | .nop => false
  | .setvar _ _ => false
  | .init => true
  | .padblk => true
  | .expand => true
  | .compress => true
  | .block => true
  | .output => true
  | .hash => true
  | .hmac => true
  | .clear => false

/-- When a command is accepted by an idle engine without error (30 R95 steps 5 to 10). -/
def Acceptable (i : Instr) (s : State) : Prop :=
  i.wellFormed = true ∧
  (needsVariant i = true → s.variant.valid = true) ∧
  (i = .padblk ∨ i = .hash ∨ i = .hmac → s.msgLen.toNat ≤ s.params.msgCap) ∧
  (i = .hmac → s.keyLen.toNat ≤ s.params.keyCap) ∧
  (i = .padblk → s.bidx.toNat < nblkView s)

/-- CMD holds a command word (10 R33), and while BUSY = 1 that command is acceptable still (20 R71) and DONE is 0. -/
def CommandGood (s : State) : Prop :=
  (∃ i, decode s.cmd = .ok i) ∧
  (s.status.busy = true → s.status.done = false ∧ ∃ i, decode s.cmd = .ok i ∧ Acceptable i s)

/-- ERR and ERRCODE agree, and the code is one of the eight (60 R270, R281, R282). -/
def ErrorGood (s : State) : Prop :=
  (s.status.err = false ↔ s.status.errcode = 0) ∧ s.status.errcode.toNat ≤ 8

/-- The memories keep their canonical form and hold nothing outside their capacity (10 R45, R46). -/
def MemoryGood (s : State) : Prop :=
  memWf s.msg ∧ memWf s.key ∧ (∀ c ∈ s.msg, c.1 < s.params.msgCap) ∧ (∀ c ∈ s.key, c.1 < s.params.keyCap)

/-- All of it. -/
def Inv (s : State) : Prop :=
  NoVariantZero s ∧ NarrowWords s ∧ Sha1Words s ∧ ShortSchedule s ∧ DigestTail s ∧ IdleHidden s ∧ HashChain s ∧
  VariantGood s ∧ CommandGood s ∧ ErrorGood s ∧ MemoryGood s ∧ s.params.legal

/-- Run the events `es` from `s`, one step each. -/
def runEvents (es : List Event) (s : State) : Host.Outcome State Fault Refusal :=
  Host.Core.run Sys2Proof.core es.length (withEvents es s)

end Sys2Proof.Safety
end

