-- ==== Sys2Proof/Certificates/Slice0/Obligations.lean ====
section
/-! DEFINITION. The statements for the provers. Each docstring names the rule of spec/ it formalises.
"In flight" is BUSY = 1: `exec i s` is then the complete step of command `i` (00 R9, 45 R262; log entry 1). -/

open Sys2Proof Sys2Proof.Machine Sys2Proof.Safety

/-! ## Encoding -/

/-- Every well-formed command is read back from its word (30 R90 to R96), SETVAR at every tag and every legal `t`. -/
def Obligations.DecodeOfEncodeIsIdentity : Prop :=
  ∀ i : Instr, i.wellFormed = true → decode (encode i) = .ok i

/-- A word that decodes is the word of what it decodes to, and that is well formed: no bit of a word is ignored (30 R93). -/
def Obligations.EncodeOfDecodeIsIdentity : Prop :=
  ∀ (c : Word32) (i : Instr), decode c = .ok i → encode i = c ∧ i.wellFormed = true

/-- A few words of 30 R92 and 95 V8, V10. -/
def Obligations.WordsOfTheSpecDecode : Prop :=
  decode 0x00000000 = .ok .nop ∧ decode 0x12000000 = .ok (.setvar .sha256 0) ∧
  decode 0x170001F8 = .ok (.setvar .sha512t 504) ∧ decode 0x30000000 = .ok .padblk ∧
  decode 0x60000000 = .ok .block ∧ decode 0x90000000 = .ok .hmac ∧ decode 0xA0000000 = .ok .clear ∧
  decode 0xB8000400 = .error .eOpcode ∧ decode 0x18000400 = .error .eVariant ∧
  decode 0x17800007 = .error .eRsvd ∧ decode 0x17000180 = .error .eT

/-- 30 R95, the whole list in its order, for a write of any word to CMD in any state. What SEQ holds at acceptance, `q`, is left open. -/
def Obligations.CmdWriteDecidesInOrder : Prop :=
  ∀ (s : State) (c : Word32),
    let op := c.toNat / 2 ^ 28
    let tag := c.toNat / 2 ^ 24 % 16
    let t := c.toNat % 1024
    ∃ q : Seq,
      perform (.wr32 0x004 c) s = .next (withReply (.write .ok)
        (if s.status.busy = true then errorEntry .eBusy s
         else if s.status.err = true then s
         else if 0xB ≤ op then errorEntry .eOpcode s
         else if op = 1 ∧ 8 ≤ tag then errorEntry .eVariant s
         else if (op ≠ 1 ∧ c.toNat % 2 ^ 28 ≠ 0) ∨ (op = 1 ∧ (c.toNat / 1024 % 2 ^ 14 ≠ 0 ∨ (tag ≠ 7 ∧ t ≠ 0))) then
           errorEntry .eRsvd s
         else if op = 1 ∧ tag = 7 ∧ ¬ (t % 8 = 0 ∧ 0 < t ∧ t < 512 ∧ t ≠ 384) then errorEntry .eT s
         else if 2 ≤ op ∧ op ≤ 9 ∧ s.variant.valid = false then errorEntry .eNovar s
         else if (op = 3 ∨ op = 8 ∨ op = 9) ∧ s.params.msgCap < s.msgLen.toNat then errorEntry .eLen s
         else if op = 9 ∧ s.params.keyCap < s.keyLen.toNat then errorEntry .eLen s
         else if op = 3 ∧ nblkView s ≤ s.bidx.toNat then errorEntry .eBidx s
         else { s with
                cmd := c
                status := { s.status with busy := true, done := false }
                seq := q }))

/-- When the next event writes to CMD a word that decodes to `i`, and no command is in flight, the step is `exec i` with the event
taken off and the port's answer set; a placed word is such an event. When the engine has its turn with a command in flight, the step is
`exec` of the command that CMD holds (30 R95, R97; log entries 1, 2, 7). -/
def Obligations.StepRunsTheDecodedCommand : Prop :=
  ∀ (s : State) (es : List Event) (i : Instr),
    (∀ c : Word32, s.events = .wr32 0x004 c :: es → s.status.busy = false → decode c = .ok i →
      step s = mapNext (withReply (.write .ok)) (exec i (withEvents es s))) ∧
    (∀ w : Nat, w < 2 ^ 32 → s.status.busy = false → decode (BitVec.ofNat 32 w) = .ok i →
      step (s.withFetchWord 32 w) = mapNext (withReply (.write .ok)) (exec i s)) ∧
    (s.events = .engine :: es → s.status.busy = true → decode s.cmd = .ok i → step s = exec i (withEvents es s)) ∧
    (s.events = [] → s.status.busy = true → decode s.cmd = .ok i → step s = exec i s)

/-! ## Word operations -/

/-- 40 R123, R124: rotations move bits circularly. -/
def Obligations.RotationsAreCircular : Prop :=
  ∀ (w n i : Nat) (x : BitVec w), 0 < n → n < w → i < w →
    (rotateRight x n).getLsbD i = x.getLsbD ((i + n) % w) ∧
    (rotateLeft x n).getLsbD i = x.getLsbD ((i + (w - n)) % w) ∧
    rotateLeft x n = rotateRight x (w - n)

/-- 40 R126 to R128, bit by bit: `ch` selects, `maj` is the majority, `parity` the XOR. -/
def Obligations.MixingFunctionsBitwise : Prop :=
  ∀ (w i : Nat) (x y z : BitVec w),
    (ch x y z).getLsbD i = (if x.getLsbD i then y.getLsbD i else z.getLsbD i) ∧
    (maj x y z).getLsbD i = decide (2 ≤ (x.getLsbD i).toNat + (y.getLsbD i).toNat + (z.getLsbD i).toNat) ∧
    (parity x y z).getLsbD i = (x.getLsbD i ^^ y.getLsbD i ^^ z.getLsbD i)

/-- 40 R129 to R132 bit by bit: three circular reads for sigma; two, and a read that gives zero past the top, for delta. -/
def Obligations.SigmaDeltaBits : Prop :=
  (∀ (x : BitVec 32) (i : Nat), i < 32 →
    (sigma0 x).getLsbD i = (x.getLsbD ((i + 2) % 32) ^^ x.getLsbD ((i + 13) % 32) ^^ x.getLsbD ((i + 22) % 32)) ∧
    (sigma1 x).getLsbD i = (x.getLsbD ((i + 6) % 32) ^^ x.getLsbD ((i + 11) % 32) ^^ x.getLsbD ((i + 25) % 32)) ∧
    (delta0 x).getLsbD i = (x.getLsbD ((i + 7) % 32) ^^ x.getLsbD ((i + 18) % 32) ^^ x.getLsbD (i + 3)) ∧
    (delta1 x).getLsbD i = (x.getLsbD ((i + 17) % 32) ^^ x.getLsbD ((i + 19) % 32) ^^ x.getLsbD (i + 10))) ∧
  (∀ (x : BitVec 64) (i : Nat), i < 64 →
    (sigma0 x).getLsbD i = (x.getLsbD ((i + 28) % 64) ^^ x.getLsbD ((i + 34) % 64) ^^ x.getLsbD ((i + 39) % 64)) ∧
    (sigma1 x).getLsbD i = (x.getLsbD ((i + 14) % 64) ^^ x.getLsbD ((i + 18) % 64) ^^ x.getLsbD ((i + 41) % 64)) ∧
    (delta0 x).getLsbD i = (x.getLsbD ((i + 1) % 64) ^^ x.getLsbD ((i + 8) % 64) ^^ x.getLsbD (i + 7)) ∧
    (delta1 x).getLsbD i = (x.getLsbD ((i + 19) % 64) ^^ x.getLsbD ((i + 61) % 64) ^^ x.getLsbD (i + 6)))

/-! ## WordCodec and padding -/

/-- 41 R150: the number of Words, and each Word as the sum of its bytes, a missing trailing byte counting as zero.
R151: byte `k * wb + j` of the serialization is byte `j` of Word `k` from the most significant end. -/
def Obligations.CodecIsBigEndian : Prop :=
  (∀ (w : Nat) (s : List Byte), w = 32 ∨ w = 64 →
    (bytesToWords w s).length = (s.length + (w / 8 - 1)) / (w / 8) ∧
    ∀ k, k < (bytesToWords w s).length →
      ((bytesToWords w s).getD k 0).toNat =
        ((List.range (w / 8)).map (fun j => (s.getD (k * (w / 8) + j) 0).toNat * 2 ^ (8 * (w / 8 - 1 - j)))).sum) ∧
  (∀ (w : Nat) (ws : List (BitVec w)), w = 32 ∨ w = 64 →
    (wordsToBytes ws).length = w / 8 * ws.length ∧
    ∀ k j, k < ws.length → j < w / 8 →
      (wordsToBytes ws).getD (k * (w / 8) + j) 0 = (ws.getD k 0).extractLsb' (8 * (w / 8 - 1 - j)) 8)

/-- 41 R152: the two conversions undo each other, but for zero bytes up to a whole Word. -/
def Obligations.CodecRoundTrip : Prop :=
  ∀ w : Nat, w = 32 ∨ w = 64 →
    (∀ ws : List (BitVec w), bytesToWords w (wordsToBytes ws) = ws) ∧
    (∀ s : List Byte, ∃ z, z < w / 8 ∧ (s.length + z) % (w / 8) = 0 ∧
      wordsToBytes (bytesToWords w s) = s ++ List.replicate z 0)

/-- 41 R156: the padded message as bytes is the message, the marker, the least number of zero bytes that makes a multiple of the
block size, and the bit length in `2 * wb` big-endian bytes; below 2^61 bytes (93 U11). -/
def Obligations.PaddingAsBytes : Prop :=
  ∀ (w : Nat) (m : List Byte), w = 32 ∨ w = 64 → m.length < 2 ^ 61 →
    ∃ (z : Nat) (suffix : List Byte),
      wordsToBytes (padWords w m) = m ++ [0x80] ++ List.replicate z 0 ++ suffix ∧
      z < 2 * w ∧ (m.length + 1 + z + 2 * (w / 8)) % (2 * w) = 0 ∧
      suffix.length = 2 * (w / 8) ∧
      suffix.foldl (fun acc b => acc * 256 + b.toNat) 0 = 8 * m.length

/-- 41 R156, R158: the padded message is a whole number of Blocks, and `nblk` counts them. -/
def Obligations.BlockCountIsExact : Prop :=
  ∀ (w : Nat) (m : List Byte), w = 32 ∨ w = 64 →
    (padWords w m).length = 16 * nblk w m.length ∧
    nblk w m.length = (m.length + 2 * (w / 8)) / (16 * (w / 8)) + 1

/-! ## Schedule, rounds, variants -/

/-- 42 R170 to R173: length, the copied Words and the two recurrences. -/
def Obligations.ExpandFollowsRecurrence : Prop :=
  ∀ (w : Nat) (a : Algo) (blk : Vector (BitVec w) 16), 16 ≤ a.n →
    let S := expand a blk
    S.length = a.n ∧
    (∀ i : Fin 16, S.getD i.val 0 = blk[i]) ∧
    ∀ i, 16 ≤ i → i < a.n →
      (a.family = .sha1 → S.getD i 0 =
        rotateLeft (S.getD (i - 3) 0 ^^^ S.getD (i - 8) 0 ^^^ S.getD (i - 14) 0 ^^^ S.getD (i - 16) 0) 1) ∧
      (a.family = .sha2 → S.getD i 0 =
        S.getD (i - 16) 0 + delta0 (S.getD (i - 15) 0) + S.getD (i - 7) 0 + delta1 (S.getD (i - 2) 0))

/-- 43 R201, R204, R205: the descriptor of each of the eight tags. R206 to R210, R221: the ROM IVs as SETVAR loads them. R213: the SHA-1
phase constants. R215: the eighty words of K512. R214: K256 has 64 entries, and `K256[i]` is the high half of `K512[i]` for `i < 64`. -/
def Obligations.RomTables : Prop :=
  (let row (tag : VariantTag) (w : Nat) (f : Family) (sw n B : Nat) (k : List Reg64) (dlen : Nat) (T : Nat) : Prop :=
      tagW tag = w ∧ tagFamily tag = f ∧ tagSw tag = sw ∧ tagN tag = n ∧ tagB tag = B ∧ tagK tag = k ∧ digestLen tag T = dlen ∧
      tagAlgo tag = { family := f, sw := sw, n := n, k := k }
    ∀ T : Nat,
      row .sha1 32 .sha1 5 80 64 k1Table 20 T ∧
      row .sha224 32 .sha2 8 64 64 k256Table 28 T ∧
      row .sha256 32 .sha2 8 64 64 k256Table 32 T ∧
      row .sha384 64 .sha2 8 80 128 k512Table 48 T ∧
      row .sha512 64 .sha2 8 80 128 k512Table 64 T ∧
      row .sha512_224 64 .sha2 8 80 128 k512Table 28 T ∧
      row .sha512_256 64 .sha2 8 80 128 k512Table 32 T ∧
      row .sha512t 64 .sha2 8 80 128 k512Table (T / 8) T) ∧
  (∀ t : BitVec 10,
    variantIv .sha1 t = #v[0x67452301, 0xEFCDAB89, 0x98BADCFE, 0x10325476, 0xC3D2E1F0, 0, 0, 0] ∧
    variantIv .sha224 t = #v[0xC1059ED8, 0x367CD507, 0x3070DD17, 0xF70E5939, 0xFFC00B31, 0x68581511, 0x64F98FA7, 0xBEFA4FA4] ∧
    variantIv .sha256 t = #v[0x6A09E667, 0xBB67AE85, 0x3C6EF372, 0xA54FF53A, 0x510E527F, 0x9B05688C, 0x1F83D9AB, 0x5BE0CD19] ∧
    variantIv .sha384 t = #v[0xCBBB9D5DC1059ED8, 0x629A292A367CD507, 0x9159015A3070DD17, 0x152FECD8F70E5939,
      0x67332667FFC00B31, 0x8EB44A8768581511, 0xDB0C2E0D64F98FA7, 0x47B5481DBEFA4FA4] ∧
    variantIv .sha512 t = #v[0x6A09E667F3BCC908, 0xBB67AE8584CAA73B, 0x3C6EF372FE94F82B, 0xA54FF53A5F1D36F1,
      0x510E527FADE682D1, 0x9B05688C2B3E6C1F, 0x1F83D9ABFB41BD6B, 0x5BE0CD19137E2179] ∧
    k1Table = [0x5A827999, 0x6ED9EBA1, 0x8F1BBCDC, 0xCA62C1D6]) ∧
  k512Table =
    [0x428A2F98D728AE22, 0x7137449123EF65CD, 0xB5C0FBCFEC4D3B2F, 0xE9B5DBA58189DBBC,
     0x3956C25BF348B538, 0x59F111F1B605D019, 0x923F82A4AF194F9B, 0xAB1C5ED5DA6D8118,
     0xD807AA98A3030242, 0x12835B0145706FBE, 0x243185BE4EE4B28C, 0x550C7DC3D5FFB4E2,
     0x72BE5D74F27B896F, 0x80DEB1FE3B1696B1, 0x9BDC06A725C71235, 0xC19BF174CF692694] ++
    [0xE49B69C19EF14AD2, 0xEFBE4786384F25E3, 0x0FC19DC68B8CD5B5, 0x240CA1CC77AC9C65,
     0x2DE92C6F592B0275, 0x4A7484AA6EA6E483, 0x5CB0A9DCBD41FBD4, 0x76F988DA831153B5,
     0x983E5152EE66DFAB, 0xA831C66D2DB43210, 0xB00327C898FB213F, 0xBF597FC7BEEF0EE4,
     0xC6E00BF33DA88FC2, 0xD5A79147930AA725, 0x06CA6351E003826F, 0x142929670A0E6E70] ++
    [0x27B70A8546D22FFC, 0x2E1B21385C26C926, 0x4D2C6DFC5AC42AED, 0x53380D139D95B3DF,
     0x650A73548BAF63DE, 0x766A0ABB3C77B2A8, 0x81C2C92E47EDAEE6, 0x92722C851482353B,
     0xA2BFE8A14CF10364, 0xA81A664BBC423001, 0xC24B8B70D0F89791, 0xC76C51A30654BE30,
     0xD192E819D6EF5218, 0xD69906245565A910, 0xF40E35855771202A, 0x106AA07032BBD1B8] ++
    [0x19A4C116B8D2D0C8, 0x1E376C085141AB53, 0x2748774CDF8EEB99, 0x34B0BCB5E19B48A8,
     0x391C0CB3C5C95A63, 0x4ED8AA4AE3418ACB, 0x5B9CCA4F7763E373, 0x682E6FF3D6B2B8A3,
     0x748F82EE5DEFB2FC, 0x78A5636F43172F60, 0x84C87814A1F0AB72, 0x8CC702081A6439EC,
     0x90BEFFFA23631E28, 0xA4506CEBDE82BDE9, 0xBEF9A3F7B2C67915, 0xC67178F2E372532B] ++
    [0xCA273ECEEA26619C, 0xD186B8C721C0C207, 0xEADA7DD6CDE0EB1E, 0xF57D4F7FEE6ED178,
     0x06F067AA72176FBA, 0x0A637DC5A2C898A6, 0x113F9804BEF90DAE, 0x1B710B35131C471B,
     0x28DB77F523047D84, 0x32CAAB7B40C72493, 0x3C9EBE0A15C9BEBC, 0x431D67C49C100D4C,
     0x4CC5D4BECB3E42B6, 0x597F299CFC657E2A, 0x5FCB6FAB3AD6FAEC, 0x6C44198C4A475817] ∧
  k256Table.length = 64 ∧ k512Table.length = 80 ∧
  ∀ i, i < 64 → k256Table.getD i 0 = (k512Table.getD i 0) >>> 32

/-- 43 R224: for a legal `t` the bootstrap's label is one Block, and the derived IV is the whole State after it, from the SHA-512 IV
XORed with the constant; R222: tags 5 to 7 load it. R202: tags 5 and 6 are tag 7 with `t = 224` and `t = 256`: same machinery, IV and digest length. -/
def Obligations.BootstrapIsOneBlock : Prop :=
  (∀ t : BitVec 10, tLegal t = true →
    let iv := compressBlock (w := 64) algo512 (ivSha512.map (fun x => x ^^^ 0xA5A5A5A5A5A5A5A5)) (paddedBlock 64 (bootLabel t.toNat) 0)
    variantIv .sha512t t = iv) ∧
  ∀ t : BitVec 10,
    tagAlgo .sha512_224 = tagAlgo .sha512t ∧ variantIv .sha512_224 t = variantIv .sha512t 224 ∧
    digestLen .sha512_224 t.toNat = digestLen .sha512t 224 ∧
    tagAlgo .sha512_256 = tagAlgo .sha512t ∧ variantIv .sha512_256 t = variantIv .sha512t 256 ∧
    digestLen .sha512_256 t.toNat = digestLen .sha512t 256

/-- 43 R225: the label's numeral is decimal ASCII without leading zero, and its value is `t`. R224: the label is the
ASCII bytes "SHA-512/" followed by it. -/
def Obligations.LabelIsDecimal : Prop :=
  (∀ t : Nat, bootLabel t = [0x53, 0x48, 0x41, 0x2D, 0x35, 0x31, 0x32, 0x2F] ++ decimalBytes t) ∧
  ∀ t : Nat, 0 < t → t < 1000 →
    ((decimalBytes t).foldl (fun acc b => acc * 10 + (b.toNat - 0x30)) 0 = t) ∧
    (∀ b ∈ decimalBytes t, 0x30 ≤ b.toNat ∧ b.toNat ≤ 0x39) ∧
    (decimalBytes t).head? ≠ some 0x30 ∧ (decimalBytes t).length ≤ 3

/-- 43 R205, 44 R240: the digest of any byte string has exactly DLEN bytes, under any variant SETVAR can construct. -/
def Obligations.DigestHasItsLength : Prop :=
  ∀ (s : State) (m : List Byte), (s.variant.tag = .sha512t → tLegal s.variant.t = true) →
    (hashOf s m).length = digestLen s.variant.tag s.variant.t.toNat

/-- 44 R240: `Hash` chains `compressBlock` over the padded Blocks in order, each exactly once, from the IV. -/
def Obligations.HashChainsTheBlocks : Prop :=
  ∀ (w : Nat) (a : Algo) (iv : Vector (BitVec w) 8) (dlen : Nat) (m : List Byte),
    ∃ S : Nat → Vector (BitVec w) 8,
      S 0 = iv ∧ (∀ j, j < nblk w m.length → S (j + 1) = compressBlock a (S j) (paddedBlock w m j)) ∧
      hashBytes a iv dlen m = (wordsToBytes ((S (nblk w m.length)).toList.take a.sw)).take dlen

/-- 44 R246: a key longer than the block counts as its digest. -/
def Obligations.LongKeyCountsAsItsDigest : Prop :=
  ∀ (s : State) (key m : List Byte), (s.variant.tag = .sha512t → tLegal s.variant.t = true) →
    tagB s.variant.tag < key.length → hmacOf s key m = hmacOf s (hashOf s key) m

/-- 44 R248: the outer message of HMAC pads to exactly two Blocks under every variant. -/
def Obligations.OuterMessageIsTwoBlocks : Prop :=
  ∀ (tag : VariantTag) (t : BitVec 10), (tag = .sha512t → tLegal t = true) →
    nblk (tagW tag) (tagB tag + digestLen tag t.toNat) = 2

/-! ## The commands -/

/-- 45 R262, 30 R95 step 11: an acceptable command given to an idle engine without error is accepted: only CMD, BUSY, DONE (and the
hidden SEQ, log entry 8) change; its next step then completes it: BUSY 0, DONE 1, CMD still its word, no error. -/
def Obligations.AcceptedCommandCompletes : Prop :=
  ∀ (i : Instr) (s : State), s.status.busy = false → s.status.err = false → Acceptable i s →
    ∃ a t, exec i s = .next a ∧
      a = { s with cmd := encode i, status := { s.status with busy := true, done := false }, seq := a.seq } ∧
      exec i a = .next t ∧
      t.status = { s.status with busy := false, done := true } ∧ t.cmd = encode i ∧ t.seq = seqIdle

/-- In flight: NOP changes nothing but the life-cycle flags (45 R260); INIT loads H from IVR and changes nothing else (43 R226);
CLEAR zeroes the data registers, loads H from IVR, and changes nothing else (45 R261). -/
def Obligations.NopInitClearComplete : Prop :=
  ∀ s : State, s.status.busy = true →
    exec .nop s = .next { s with
      status := { s.status with busy := false, done := true }, seq := { stage := .idle, j := 0, t := 0 } } ∧
    exec .init s = .next { s with
      h := s.ivr
      status := { s.status with busy := false, done := true }, seq := { stage := .idle, j := 0, t := 0 } } ∧
    exec .clear s = .next { s with
      blk := Vector.replicate 16 0, w := Vector.replicate 80 0, v := Vector.replicate 8 0
      k0 := Vector.replicate 128 0, dout := Vector.replicate 64 0
      h := s.ivr
      status := { s.status with busy := false, done := true }, seq := { stage := .idle, j := 0, t := 0 } }

/-- 43 R220, 30 R91: SETVAR in flight. The IV is `variantIv`, given by RomTables and BootstrapIsOneBlock. -/
def Obligations.SetvarCompletes : Prop :=
  ∀ (s : State) (tag : VariantTag) (t : BitVec 10), s.status.busy = true →
    exec (.setvar tag t) s = .next { s with
      variant := { valid := true, tag := tag,
                   t := if tag = .sha512_224 then 224 else if tag = .sha512_256 then 256 else if tag = .sha512t then t else 0 }
      ivr := variantIv tag t
      h := variantIv tag t
      blk := Vector.replicate 16 0, w := Vector.replicate 80 0, v := Vector.replicate 8 0
      k0 := Vector.replicate 128 0, dout := Vector.replicate 64 0
      status := { s.status with busy := false, done := true }, seq := { stage := .idle, j := 0, t := 0 } }

/-- 41 R162, R157: PADBLK in flight: `BLK[i]` is Word `16 * BIDX + i` of the padded message, zero-extended; nothing else changes. -/
def Obligations.PadblkCompletes : Prop :=
  ∀ s : State, s.status.busy = true → s.variant.valid = true → s.bidx.toNat < nblkView s →
    ∃ blk, exec .padblk s = .next { s with
        blk := blk
        status := { s.status with busy := false, done := true }, seq := { stage := .idle, j := 0, t := 0 } } ∧
      ∀ i : Fin 16, ∃ x, (padWords (tagW s.variant.tag) (memRead s .msg 0 s.msgLen.toNat))[16 * s.bidx.toNat + i.val]? = some x ∧
        blk[i] = x.setWidth 64

/-- 42 R174, R171 to R173: EXPAND in flight: W holds the schedule of the truncated Block, zero from entry `n` on; nothing else changes.
`x i` is Word `i` of the new W at the variant's width. -/
def Obligations.ExpandCompletes : Prop :=
  ∀ s : State, s.status.busy = true →
    ∃ W : Vector Reg64 80, exec .expand s = .next { s with
        w := W
        status := { s.status with busy := false, done := true }, seq := { stage := .idle, j := 0, t := 0 } } ∧
      let x : Nat → BitVec (tagW s.variant.tag) := fun i => (W.toList.getD i 0).setWidth (tagW s.variant.tag)
      (∀ i : Fin 80, i.val < tagN s.variant.tag → W[i] = (x i.val).setWidth 64) ∧
      (∀ i : Fin 80, tagN s.variant.tag ≤ i.val → W[i] = 0) ∧
      (∀ i : Fin 16, x i.val = s.blk[i].setWidth (tagW s.variant.tag)) ∧
      (∀ i, 16 ≤ i → i < tagN s.variant.tag →
        x i = match tagFamily s.variant.tag with
          | .sha1 => rotateLeft (x (i - 3) ^^^ x (i - 8) ^^^ x (i - 14) ^^^ x (i - 16)) 1
          | .sha2 => x (i - 16) + delta0 (x (i - 15)) + x (i - 7) + delta1 (x (i - 2)))

/-- 42 R181, R175 to R179: COMPRESS in flight. `V t` is the value of the working variables before round `t`. -/
def Obligations.CompressCompletes : Prop :=
  ∀ s : State, s.status.busy = true →
    let w := tagW s.variant.tag
    let tag := s.variant.tag
    ∃ (H : Vector Reg64 8) (V : Nat → Vector (BitVec w) 8),
      exec .compress s = .next { s with
        h := H, v := Vector.replicate 8 0
        status := { s.status with busy := false, done := true }, seq := { stage := .idle, j := 0, t := 0 } } ∧
      (∀ i : Fin 8, (V 0)[i] = s.h[i].setWidth w) ∧
      (∀ t : Fin 80, t.val < tagN tag →
        let a := (V t)[0]; let b := (V t)[1]; let c := (V t)[2]; let d := (V t)[3]
        let e := (V t)[4]; let f := (V t)[5]; let g := (V t)[6]; let h := (V t)[7]
        let S := s.w[t].setWidth w
        (tagFamily tag = .sha1 →
          let p := t.val / 20
          let F := if p = 0 then ch b c d else if p = 2 then maj b c d else parity b c d
          let T := rotateLeft a 5 + F + e + (k1Table.getD p 0).setWidth w + S
          (V (t.val + 1))[0] = T ∧ (V (t.val + 1))[1] = a ∧ (V (t.val + 1))[2] = rotateLeft b 30 ∧
          (V (t.val + 1))[3] = c ∧ (V (t.val + 1))[4] = d) ∧
        (tagFamily tag = .sha2 →
          let K := (if w = 32 then k256Table.getD t.val 0 else k512Table.getD t.val 0).setWidth w
          let t1 := h + sigma1 e + ch e f g + K + S
          let t2 := sigma0 a + maj a b c
          V (t.val + 1) = #v[t1 + t2, a, b, c, d + t1, e, f, g])) ∧
      (∀ i : Fin 8, H[i] = if i.val < tagSw tag then (s.h[i].setWidth w + (V (tagN tag))[i]).setWidth 64 else s.h[i])

/-- 42 R182: BLOCK in flight leaves what EXPAND and then COMPRESS leave: W the schedule of BLK, and in the truncated Words
`H <- compressBlock(H, BLK)`. -/
def Obligations.BlockCompletes : Prop :=
  ∀ s : State, s.status.busy = true →
    ∃ e t, exec .expand s = .next e ∧ exec .compress { e with status := s.status, seq := s.seq } = .next t ∧
      exec .block s = .next t ∧
      truncFile (tagW s.variant.tag) t.h =
        compressBlock (tagAlgo s.variant.tag) (truncFile (tagW s.variant.tag) s.h) (truncFile (tagW s.variant.tag) s.blk)

/-- 43 R231, R230, 41 R151: OUTPUT in flight: `DOUT[i]` for `i < DLEN` is byte `i` of H's big-endian serialization, zero beyond;
nothing else changes. -/
def Obligations.OutputCompletes : Prop :=
  ∀ s : State, s.status.busy = true → s.variant.valid = true → (s.variant.tag = .sha512t → tLegal s.variant.t = true) →
    let wb := tagW s.variant.tag / 8
    ∃ D : Vector Byte 64, exec .output s = .next { s with
        dout := D
        status := { s.status with busy := false, done := true }, seq := { stage := .idle, j := 0, t := 0 } } ∧
      ∀ i : Fin 64, D[i] =
        if i.val < dlenView s then (s.h.toList.getD (i.val / wb) 0).extractLsb' (8 * (wb - 1 - i.val % wb)) 8 else 0

/-- 44 R241: HASH in flight: DOUT the digest of MSG[0..MSG_LEN-1] and zero beyond, H at IVR, BLK, W, V zero; nothing else changes. -/
def Obligations.HashCompletes : Prop :=
  ∀ s : State, s.status.busy = true → s.variant.valid = true →
    ∃ D : Vector Byte 64, exec .hash s = .next { s with
        dout := D, h := s.ivr
        blk := Vector.replicate 16 0, w := Vector.replicate 80 0, v := Vector.replicate 8 0
        status := { s.status with busy := false, done := true }, seq := { stage := .idle, j := 0, t := 0 } } ∧
      let d := hashBytes (tagAlgo s.variant.tag) (truncFile (tagW s.variant.tag) s.ivr) (dlenView s)
        ((List.range s.msgLen.toNat).map (fun a => readByte s .msg a))
      ∀ i : Fin 64, D[i] = if i.val < dlenView s then d.getD i.val 0 else 0

/-- 44 R249, R245 to R248, R251: HMAC in flight, the construction written out; K0, BLK, W, V zero and H at IVR; nothing else changes. -/
def Obligations.HmacCompletes : Prop :=
  ∀ s : State, s.status.busy = true → s.variant.valid = true →
    ∃ D : Vector Byte 64, exec .hmac s = .next { s with
        dout := D, h := s.ivr
        blk := Vector.replicate 16 0, w := Vector.replicate 80 0, v := Vector.replicate 8 0, k0 := Vector.replicate 128 0
        status := { s.status with busy := false, done := true }, seq := { stage := .idle, j := 0, t := 0 } } ∧
      let Hash : List Byte → List Byte :=
        hashBytes (tagAlgo s.variant.tag) (truncFile (tagW s.variant.tag) s.ivr) (dlenView s)
      let B := blkszView s
      let key := (List.range s.keyLen.toNat).map (fun a => readByte s .key a)
      let msg := (List.range s.msgLen.toNat).map (fun a => readByte s .msg a)
      let k1 := if B < key.length then Hash key else key
      let k0 := k1 ++ List.replicate (B - k1.length) 0
      let inner := Hash (k0.map (fun b => b ^^^ 0x36) ++ msg)
      let d := Hash (k0.map (fun b => b ^^^ 0x5C) ++ inner)
      ∀ i : Fin 64, D[i] = if i.val < dlenView s then d.getD i.val 0 else 0

/-- What no command writes, in any phase: both memories, the length registers, IEN and the model's own fields (10 R37 to R39, R45, R46,
60 R282). Only SETVAR writes VARIANT and IVR (10 R26, R36). A completion leaves CMD, ERR and ERRCODE alone. -/
def Obligations.CommandFrame : Prop :=
  ∀ (i : Instr) (s t : State), exec i s = .next t →
    t.msg = s.msg ∧ t.key = s.key ∧ t.msgLen = s.msgLen ∧ t.keyLen = s.keyLen ∧ t.bidx = s.bidx ∧ t.ien = s.ien ∧
    t.params = s.params ∧ t.powerUps = s.powerUps ∧ t.events = s.events ∧ t.reply = s.reply ∧
    ((∀ tag x, i ≠ .setvar tag x) → t.variant = s.variant ∧ t.ivr = s.ivr) ∧
    (s.status.busy = true → t.cmd = s.cmd ∧ t.status.err = s.status.err ∧ t.status.errcode = s.status.errcode) ∧
    (s.status.busy = false →
      t.h = s.h ∧ t.blk = s.blk ∧ t.w = s.w ∧ t.v = s.v ∧ t.k0 = s.k0 ∧ t.dout = s.dout ∧ t.ivr = s.ivr ∧ t.variant = s.variant)

/-- 42 R174, 10 R21: in a 32-bit variant bits 63:32 of BLK do not matter to EXPAND and BLOCK. -/
def Obligations.HighHalvesOfBlkIgnored : Prop :=
  ∀ s s' : State, s.status.busy = true → tagW s.variant.tag = 32 →
    s' = { s with blk := s'.blk } → (∀ i : Fin 16, s'.blk[i].extractLsb' 0 32 = s.blk[i].extractLsb' 0 32) →
    ∃ t t' u u', exec .expand s = .next t ∧ exec .expand s' = .next t' ∧ t.w = t'.w ∧
      exec .block s = .next u ∧ exec .block s' = .next u' ∧ u.h = u'.h ∧ u.w = u'.w

/-- The effects of the low-level commands, composed (the effect functions, not exec or steps), give the digest of the effect of HASH: INIT, then PADBLK and BLOCK for each Block index in order,
then OUTPUT (70 R307; 96, selfcheck). -/
def Obligations.LowLevelLoopGivesTheDigest : Prop :=
  ∀ s : State, s.variant.valid = true →
    let looped := (List.range (nblkView s)).foldl (fun s' j => blockEffect (padblkEffect { s' with bidx := BitVec.ofNat 32 j })) (initEffect s)
    (outputEffect looped).dout = (hashEffect s).dout

/-! ## Errors, status, interrupt -/

/-- 60 R281, R270: an error sets ERR and its code if ERR was clear, and changes nothing else; the first error is kept. -/
def Obligations.FirstErrorIsKept : Prop :=
  (∀ (e : ErrCode) (s : State),
    errorEntry e s = if s.status.err = true then s
      else { s with status := { s.status with err := true, errcode := errCode e } }) ∧
  errCode .eOpcode = 0x01 ∧ errCode .eRsvd = 0x02 ∧ errCode .eVariant = 0x03 ∧ errCode .eT = 0x04 ∧
  errCode .eNovar = 0x05 ∧ errCode .eLen = 0x06 ∧ errCode .eBidx = 0x07 ∧ errCode .eBusy = 0x08

/-- 60 R282, 10 R34: a write to STATUS acts through bits 1 and 2 only, also while BUSY = 1. -/
def Obligations.StatusWriteAcknowledges : Prop :=
  ∀ (s : State) (d : Word32),
    perform (.wr32 0x008 d) s = .next { s with
      reply := .write .ok
      status :=
        { busy := s.status.busy
          done := if d.getLsbD 1 = true then false else s.status.done
          err := if d.getLsbD 2 = true then false else s.status.err
          errcode := if d.getLsbD 2 = true then 0 else s.status.errcode } }

/-- 20 R71, 60 R279: while BUSY = 1 a write to a mapped address other than STATUS and IEN is dropped with E_BUSY. -/
def Obligations.BusyWritesAreDropped : Prop :=
  ∀ (s : State) (a : HostAddr) (tgt : Target), s.status.busy = true → tgt ≠ .ctrl .status → tgt ≠ .ctrl .ien →
    (∀ d, target4 s.params a = some tgt → perform (.wr32 a d) s = .next (withReply (.write .ok) (errorEntry .eBusy s))) ∧
    (∀ b, target1 s.params a = some tgt → perform (.wr8 a b) s = .next (withReply (.write .ok) (errorEntry .eBusy s)))

/-- 20 R70: while BUSY = 1 data registers and windows read 0 with OK; control registers and views read as usual. -/
def Obligations.BusyReadsAreMasked : Prop :=
  ∀ (s : State) (a : HostAddr) (tgt : Target), s.status.busy = true →
    (target4 s.params a = some tgt → perform (.rd32 a) s = .next (withReply (.read (match tgt with
        | .ctrl r => readCtrl s r
        | .hHalf _ _ => 0
        | .doutWord _ => 0
        | .blkHalf _ _ => 0
        | .wHalf _ _ => 0
        | .window _ _ => 0) .ok) s)) ∧
    (target1 s.params a = some tgt → perform (.rd8 a) s = .next (withReply (.read 0 .ok) s))

/-- 60 R285: the interrupt output. -/
def Obligations.InterruptOutput : Prop :=
  ∀ s : State, irq s = true ↔
    (s.status.done = true ∧ s.ien.doneIe = true) ∨ (s.status.err = true ∧ s.ien.errIe = true)

/-! ## The host port -/

/-- 20 R62, R66, R67, R60, 10 R31: a 4-byte transaction answers OK exactly on aligned mapped addresses; otherwise BUSERR, data 0,
and nothing changes. A 1-byte transaction is OK exactly in the windows. -/
def Obligations.OnlyMappedAddressesAnswer : Prop :=
  ∀ (s : State) (a : HostAddr), s.params.legal →
    let n := a.toNat
    let inWindow := (0x1000 ≤ n ∧ n < 0x1000 + s.params.keyCap) ∨ (0x1000000 ≤ n ∧ n < 0x1000000 + s.params.msgCap)
    let mapped4 := n % 4 = 0 ∧ (n ≤ 0x30 ∨ (0x100 ≤ n ∧ n < 0x480) ∨ inWindow)
    (mapped4 → (∃ d, perform (.rd32 a) s = .next (withReply (.read d .ok) s)) ∧
      ∀ d, ∃ t, perform (.wr32 a d) s = .next (withReply (.write .ok) t)) ∧
    (¬ mapped4 → perform (.rd32 a) s = .next (withReply (.read 0 .busErr) s) ∧
      ∀ d, perform (.wr32 a d) s = .next (withReply (.write .busErr) s)) ∧
    (inWindow → (∃ d, perform (.rd8 a) s = .next (withReply (.read d .ok) s)) ∧
      ∀ b, ∃ t, perform (.wr8 a b) s = .next (withReply (.write .ok) t)) ∧
    (¬ inWindow → perform (.rd8 a) s = .next (withReply (.read 0 .busErr) s) ∧
      ∀ b, perform (.wr8 a b) s = .next (withReply (.write .busErr) s))

/-- 10 R32 to R44: what the host reads at each control offset, STATUS, IEN and VARIANT as numbers (R34 to R36), and the
numbers of the views NBLK, DLEN and BLKSZ (R40 to R42). -/
def Obligations.ControlRegistersRead : Prop :=
  ∀ s : State, ∃ st ie va : Word32,
    perform (.rd32 0x000) s = .next (withReply (.read 0x53484145 .ok) s) ∧
    perform (.rd32 0x004) s = .next (withReply (.read s.cmd .ok) s) ∧
    perform (.rd32 0x008) s = .next (withReply (.read st .ok) s) ∧
    st.toNat = s.status.busy.toNat + 2 * s.status.done.toNat + 4 * s.status.err.toNat + 256 * s.status.errcode.toNat ∧
    perform (.rd32 0x00C) s = .next (withReply (.read ie .ok) s) ∧
    ie.toNat = 2 * s.ien.doneIe.toNat + 4 * s.ien.errIe.toNat ∧
    perform (.rd32 0x010) s = .next (withReply (.read va .ok) s) ∧
    va.toNat = 2 ^ 31 * s.variant.valid.toNat + 2 ^ 24 * s.variant.tag.bits.toNat + s.variant.t.toNat ∧
    perform (.rd32 0x014) s = .next (withReply (.read s.msgLen .ok) s) ∧
    perform (.rd32 0x018) s = .next (withReply (.read s.keyLen .ok) s) ∧
    perform (.rd32 0x01C) s = .next (withReply (.read s.bidx .ok) s) ∧
    perform (.rd32 0x020) s = .next (withReply (.read (BitVec.ofNat 32 (nblkView s)) .ok) s) ∧
    perform (.rd32 0x024) s = .next (withReply (.read (BitVec.ofNat 32 (dlenView s)) .ok) s) ∧
    perform (.rd32 0x028) s = .next (withReply (.read (BitVec.ofNat 32 (blkszView s)) .ok) s) ∧
    perform (.rd32 0x02C) s = .next (withReply (.read (BitVec.ofNat 32 s.params.msgCap) .ok) s) ∧
    perform (.rd32 0x030) s = .next (withReply (.read (BitVec.ofNat 32 s.params.keyCap) .ok) s) ∧
    nblkView s = (if s.variant.valid = true then
      (s.msgLen.toNat + 2 * (tagW s.variant.tag / 8)) / (16 * (tagW s.variant.tag / 8)) + 1 else 0) ∧ nblkView s < 2 ^ 27 ∧
    dlenView s = (if s.variant.valid = true then digestLen s.variant.tag s.variant.t.toNat else 0) ∧ dlenView s < 2 ^ 32 ∧
    blkszView s = (if s.variant.valid = true then tagB s.variant.tag else 0) ∧ blkszView s < 2 ^ 32

/-- 20 R65, R77: while idle each word register reads as its two halves, high half at the lower address, and DOUT as big-endian words.
20 R64: a 4-byte read of a window is the four bytes at that address, most significant first; a 1-byte read is the byte. -/
def Obligations.DataRegistersRead : Prop :=
  (∀ s : State, s.status.busy = false →
    let at' (base k : Nat) (d : Word32) : Prop := perform (.rd32 (BitVec.ofNat 25 (base + k))) s = .next (withReply (.read d .ok) s)
    (∀ i : Fin 8, at' 0x100 (8 * i.val) (s.h[i].extractLsb' 32 32) ∧ at' 0x104 (8 * i.val) (s.h[i].extractLsb' 0 32)) ∧
    (∀ i : Fin 16, at' 0x180 (8 * i.val) (s.blk[i].extractLsb' 32 32) ∧ at' 0x184 (8 * i.val) (s.blk[i].extractLsb' 0 32)) ∧
    (∀ i : Fin 80, at' 0x200 (8 * i.val) (s.w[i].extractLsb' 32 32) ∧ at' 0x204 (8 * i.val) (s.w[i].extractLsb' 0 32)) ∧
    (∀ i : Fin 16, ∃ d : Word32, at' 0x140 (4 * i.val) d ∧
      ∀ k : Fin 4, d.extractLsb' (24 - 8 * k.val) 8 = s.dout.toList.getD (4 * i.val + k.val) 0)) ∧
  (∀ (s : State) (sp : Space) (a : Nat), s.params.legal → s.status.busy = false → a < capOf s sp →
    let base := match sp with
      | .key => 0x1000
      | .msg => 0x1000000
    (a % 4 = 0 → ∃ d : Word32, perform (.rd32 (BitVec.ofNat 25 (base + a))) s = .next (withReply (.read d .ok) s) ∧
      ∀ k : Fin 4, d.extractLsb' (24 - 8 * k.val) 8 = readByte s sp (a + k.val)) ∧
    perform (.rd8 (BitVec.ofNat 25 (base + a))) s = .next (withReply (.read ((readByte s sp a).setWidth 32) .ok) s))

/-- 20 R64: a word written to a window while idle is the four bytes at that address, most significant first; every other byte of both
memories reads as before, and nothing else changes. A byte write sets one byte. -/
def Obligations.WindowWriteIsBigEndian : Prop :=
  ∀ (s : State) (sp : Space) (a : Nat), s.params.legal → s.status.busy = false →
    let base := match sp with
      | .key => 0x1000
      | .msg => 0x1000000
    (∀ d : Word32, a % 4 = 0 → a < capOf s sp →
      ∃ t, perform (.wr32 (BitVec.ofNat 25 (base + a)) d) s = .next t ∧
        t = { s with msg := t.msg, key := t.key, reply := .write .ok } ∧
        (∀ k : Fin 4, readByte t sp (a + k.val) = d.extractLsb' (24 - 8 * k.val) 8) ∧
        (∀ sp' x, sp' ≠ sp ∨ x < a ∨ a + 4 ≤ x → readByte t sp' x = readByte s sp' x)) ∧
    (∀ b : Byte, a < capOf s sp →
      ∃ t, perform (.wr8 (BitVec.ofNat 25 (base + a)) b) s = .next t ∧
        t = { s with msg := t.msg, key := t.key, reply := .write .ok } ∧
        readByte t sp a = b ∧
        (∀ sp' x, sp' ≠ sp ∨ x ≠ a → readByte t sp' x = readByte s sp' x))

/-- 20 R65: a write to one half of BLK[i] while idle replaces that half only. -/
def Obligations.BlkHalfWrite : Prop :=
  ∀ (s : State) (i : Fin 16) (low : Bool) (d : Word32), s.status.busy = false →
    ∃ t, perform (.wr32 (BitVec.ofNat 25 ((if low = true then 0x184 else 0x180) + 8 * i.val)) d) s = .next t ∧
      t = { s with blk := t.blk, reply := .write .ok } ∧
      t.blk[i].extractLsb' (if low = true then 0 else 32) 32 = d ∧
      t.blk[i].extractLsb' (if low = true then 32 else 0) 32 = s.blk[i].extractLsb' (if low = true then 32 else 0) 32 ∧
      ∀ k : Fin 16, k ≠ i → t.blk[k] = s.blk[k]

/-- 10 R37 to R39 while idle, and R35 at any time: the length registers and BIDX take any 32-bit value, IEN bits 1 and 2.
20 R69: while idle a write to a read-only register or view is OK and ignored. -/
def Obligations.RegisterWrites : Prop :=
  (∀ (s : State) (d : Word32),
    (s.status.busy = false →
      perform (.wr32 0x014 d) s = .next { s with msgLen := d, reply := .write .ok } ∧
      perform (.wr32 0x018 d) s = .next { s with keyLen := d, reply := .write .ok } ∧
      perform (.wr32 0x01C d) s = .next { s with bidx := d, reply := .write .ok }) ∧
    perform (.wr32 0x00C d) s = .next { s with
      ien := { doneIe := d.getLsbD 1, errIe := d.getLsbD 2 }, reply := .write .ok }) ∧
  (∀ (s : State) (a : HostAddr) (d : Word32), s.status.busy = false → a.toNat % 4 = 0 →
    (a.toNat = 0x000 ∨ a.toNat = 0x010 ∨ (0x020 ≤ a.toNat ∧ a.toNat ≤ 0x030) ∨ (0x100 ≤ a.toNat ∧ a.toNat < 0x180) ∨
      (0x200 ≤ a.toNat ∧ a.toNat < 0x480)) →
    perform (.wr32 a d) s = .next (withReply (.write .ok) s))

/-- 20 R68: no read has a side effect; only the port's answer and the event list differ after it. -/
def Obligations.ReadsHaveNoSideEffect : Prop :=
  ∀ (s : State) (a : HostAddr) (es : List Event), s.events = .rd32 a :: es ∨ s.events = .rd8 a :: es →
    ∃ r, step s = .next { s with events := es, reply := r }

/-! ## Reset -/

/-- 70 R300, 10 R48: reset at any moment leaves the table of R48; MSG and KEY keep their bytes; a command in flight is abandoned. -/
def Obligations.ResetLeavesTheTable : Prop :=
  ∀ s : State, ∃ t, perform .reset s = .next t ∧
    t.h = Vector.replicate 8 0 ∧ t.blk = Vector.replicate 16 0 ∧ t.w = Vector.replicate 80 0 ∧ t.v = Vector.replicate 8 0 ∧
    t.ivr = Vector.replicate 8 0 ∧ t.k0 = Vector.replicate 128 0 ∧ t.dout = Vector.replicate 64 0 ∧
    t.seq = { stage := .idle, j := 0, t := 0 } ∧ t.cmd = 0 ∧ statusWord t.status = 0 ∧ ienWord t.ien = 0 ∧
    variantWord t.variant = 0 ∧ t.msgLen = 0 ∧ t.keyLen = 0 ∧ t.bidx = 0 ∧
    nblkView t = 0 ∧ dlenView t = 0 ∧ blkszView t = 0 ∧ irq t = false ∧
    readCtrl t .id = 0x53484145 ∧ readCtrl t .msgCapR = BitVec.ofNat 32 s.params.msgCap ∧
    readCtrl t .keyCapR = BitVec.ofNat 32 s.params.keyCap ∧
    t.msg = s.msg ∧ t.key = s.key ∧ t.params = s.params

/-! ## Whole-machine rules -/

/-- The invariants of 10 R49 (and those beside them, Safety.Inv) hold right after reset. -/
def Obligations.ResetMeetsTheInvariants : Prop := Inv State.reset

/-- 10 R49: every step keeps the invariants, from any state that meets them: register widths, unused words, digest tail, hidden
registers, the hash chain (g), the variant and its IV, the command in flight, the error code, the canonical memories, the parameters. -/
def Obligations.StepKeepsTheInvariants : Prop :=
  ∀ s t : State, Inv s → step s = .next t → Inv t

/-- The memories keep their canonical form and their bounds under every step (10 R45, R46). -/
def Obligations.StepKeepsMemoriesCanonical : Prop :=
  ∀ s t : State, MemoryGood s → s.params.legal → step s = .next t → MemoryGood t ∧ t.params = s.params

/-- 93 Part 1, 00 R10: nothing in this hardware is stuck: from a state that meets the invariants every step answers a next state, and
while a command is in flight the engine's turn ends it. -/
def Obligations.NothingIsStuck : Prop :=
  ∀ s : State, Inv s →
    (∃ t, step s = .next t) ∧
    (s.status.busy = true → ∃ t, engineTurn s = .next t ∧ t.status.busy = false ∧ t.status.done = true)

/-- 10 R26, R36: a step changes VARIANT or IVR only by reset, by power-up, or by the completion of a SETVAR in
flight: the turn of the engine, by event or with no event left (log entries 2 and 6). -/
def Obligations.OnlySetvarWritesVariant : Prop :=
  ∀ s t : State, step s = .next t → t.variant ≠ s.variant ∨ t.ivr ≠ s.ivr →
    s.events.head? = some .reset ∨ s.events.head? = some .powerUp ∨
    ((s.events = [] ∨ s.events.head? = some .engine) ∧ s.status.busy = true ∧ ∃ tag x, decode s.cmd = .ok (.setvar tag x))

/-- 20 R71, R74: while BUSY = 1 a host transaction changes only STATUS's DONE, ERR and ERRCODE, IEN, and the port's answer:
the inputs of the running command are constant. -/
def Obligations.InputsConstantWhileBusy : Prop :=
  ∀ (s t : State) (e : Event), s.status.busy = true → e ≠ .reset → e ≠ .powerUp → e ≠ .engine → perform e s = .next t →
    t = { s with status := t.status, ien := t.ien, reply := t.reply } ∧ t.status.busy = true

/-- 70 R312, 20 R71, R74: what a command leaves does not depend on how many host transactions, nor which, fall between its accept and
its completion. Only ERR, ERRCODE, IEN and the port's answer can differ. -/
def Obligations.ResultIndependentOfLatency : Prop :=
  ∀ (s u : State) (i : Instr) (es : List Event), s.status.busy = true → decode s.cmd = .ok i →
    (∀ e ∈ es, e ≠ .reset ∧ e ≠ .powerUp ∧ e ≠ .engine) → exec i s = .next u →
    ∃ t, runEvents (es ++ [.engine]) s = .next t ∧
      t = { u with status := t.status, ien := t.ien, reply := t.reply, events := [] } ∧
      t.status.busy = false ∧ t.status.done = true

/-- 44 R241 with 30 R100 and 20 R74: from any idle state without error and with a variant, LOADMSG of any message that fits, DO HASH
with the turn of the engine anywhere among the polls, and GETDIGEST give the host the message's digest, and leave it in DOUT, DONE = 1
and ERR = 0. -/
def Obligations.LoadedMessageIsHashed : Prop :=
  ∀ (s : State) (m : List Byte) (turns : List Bool), s.params.legal → s.status.busy = false → s.status.err = false →
    s.variant.valid = true → (s.variant.tag = .sha512t → tLegal s.variant.t = true) → m.length ≤ s.params.msgCap → true ∈ turns →
    ∃ t, runScript [.loadMsg m, .doCommand .hash turns, .getDigest] s = some (t, [.digest (hashOf s m)]) ∧
      t.dout = doutOf (hashOf s m) ∧ t.h = s.ivr ∧ t.status = { s.status with busy := false, done := true } ∧
      irq t = s.ien.doneIe

/-- 44 R249 with 30 R100: the same for LOADKEY, LOADMSG, DO HMAC and GETDIGEST. -/
def Obligations.LoadedKeyAndMessageAreMaced : Prop :=
  ∀ (s : State) (k m : List Byte) (turns : List Bool), s.params.legal → s.status.busy = false → s.status.err = false →
    s.variant.valid = true → (s.variant.tag = .sha512t → tLegal s.variant.t = true) → m.length ≤ s.params.msgCap →
    k.length ≤ s.params.keyCap → true ∈ turns →
    ∃ t, runScript [.loadKey k, .loadMsg m, .doCommand .hmac turns, .getDigest] s = some (t, [.digest (hmacOf s k m)]) ∧
      t.dout = doutOf (hmacOf s k m) ∧ t.h = s.ivr ∧ t.k0 = Vector.replicate 128 0 ∧
      t.status = { s.status with busy := false, done := true }

/-! ## The sequencer -/

/-- 42 R183: from the accepted state, the micro-operations of EXPAND, COMPRESS and BLOCK reach exactly the state the command's whole
effect gives (log entry 8). -/
def Obligations.MicroOpsRefineBlockCommands : Prop :=
  ∀ (i : Instr) (s a t : State), i = .expand ∨ i = .compress ∨ i = .block →
    s.status.busy = false → exec i s = .next a → a.status.busy = true → exec i a = .next t →
    ∃ k, microRun i k a = t

/-- 44 R242: the same for HASH, over all the Blocks of the message. -/
def Obligations.MicroOpsRefineHash : Prop :=
  ∀ s a t : State, s.status.busy = false → exec .hash s = .next a → a.status.busy = true → exec .hash a = .next t →
    ∃ k, microRun .hash k a = t

/-- 44 R250: the same for HMAC, its four stages (log entry 9). -/
def Obligations.MicroOpsRefineHmac : Prop :=
  ∀ s a t : State, s.status.busy = false → exec .hmac s = .next a → a.status.busy = true → exec .hmac a = .next t →
    microRun .hmac 4 a = t

/-- 43 R224: the same for the bootstrap of SETVAR with tags 5 to 7, which uses H, BLK, W and V as scratch (R222; log entry 10). -/
def Obligations.MicroOpsRefineBootstrap : Prop :=
  ∀ (tag : VariantTag) (x : BitVec 10) (s a t : State), tag = .sha512_224 ∨ tag = .sha512_256 ∨ tag = .sha512t →
    s.status.busy = false → exec (.setvar tag x) s = .next a → a.status.busy = true → exec (.setvar tag x) a = .next t →
    ∃ k, microRun (.setvar tag x) k a = t

/-! ## Host scripts -/

/-- 30 R100: a WAIT polls until it reads BUSY = 0. With no command in flight (one was refused, or has completed) it ends at its first
poll; with one in flight it does not end before the turn of the engine, and ends with the command complete. Which polls come before
that turn makes no difference (70 R312; log entry 2). -/
def Obligations.WaitPollsUntilIdle : Prop :=
  ∀ (s : State) (turns : List Bool),
    (s.status.busy = false → waitRun turns s = some (withReply (.read (statusWord s.status) .ok) s)) ∧
    (s.status.busy = true → true ∉ turns → waitRun turns s = none) ∧
    (∀ i, s.status.busy = true → decode s.cmd = .ok i → true ∈ turns →
      ∃ u, exec i s = .next u ∧ u.status.busy = false ∧ waitRun turns s = some (withReply (.read (statusWord u.status) .ok) u))
end

