-- ==== Sys2Proof/Laws/State.lean ====
section
/-! SUPPORT. What each shared state operation leaves in each field, one lemma per field per update, so that no proof unfolds an update. -/

namespace Sys2Proof.Machine

/-! ## withEvents, withReply -/

@[simp] theorem withEvents_h (es : List Event) (s : State) : (withEvents es s).h = s.h := rfl
@[simp] theorem withEvents_blk (es : List Event) (s : State) : (withEvents es s).blk = s.blk := rfl
@[simp] theorem withEvents_w (es : List Event) (s : State) : (withEvents es s).w = s.w := rfl
@[simp] theorem withEvents_v (es : List Event) (s : State) : (withEvents es s).v = s.v := rfl
@[simp] theorem withEvents_ivr (es : List Event) (s : State) : (withEvents es s).ivr = s.ivr := rfl
@[simp] theorem withEvents_k0 (es : List Event) (s : State) : (withEvents es s).k0 = s.k0 := rfl
@[simp] theorem withEvents_dout (es : List Event) (s : State) : (withEvents es s).dout = s.dout := rfl
@[simp] theorem withEvents_seq (es : List Event) (s : State) : (withEvents es s).seq = s.seq := rfl
@[simp] theorem withEvents_cmd (es : List Event) (s : State) : (withEvents es s).cmd = s.cmd := rfl
@[simp] theorem withEvents_status (es : List Event) (s : State) : (withEvents es s).status = s.status := rfl
@[simp] theorem withEvents_ien (es : List Event) (s : State) : (withEvents es s).ien = s.ien := rfl
@[simp] theorem withEvents_variant (es : List Event) (s : State) : (withEvents es s).variant = s.variant := rfl
@[simp] theorem withEvents_msgLen (es : List Event) (s : State) : (withEvents es s).msgLen = s.msgLen := rfl
@[simp] theorem withEvents_keyLen (es : List Event) (s : State) : (withEvents es s).keyLen = s.keyLen := rfl
@[simp] theorem withEvents_bidx (es : List Event) (s : State) : (withEvents es s).bidx = s.bidx := rfl
@[simp] theorem withEvents_msg (es : List Event) (s : State) : (withEvents es s).msg = s.msg := rfl
@[simp] theorem withEvents_key (es : List Event) (s : State) : (withEvents es s).key = s.key := rfl
@[simp] theorem withEvents_params (es : List Event) (s : State) : (withEvents es s).params = s.params := rfl
@[simp] theorem withEvents_powerUps (es : List Event) (s : State) : (withEvents es s).powerUps = s.powerUps := rfl
@[simp] theorem withEvents_events (es : List Event) (s : State) : (withEvents es s).events = es := rfl
@[simp] theorem withEvents_reply (es : List Event) (s : State) : (withEvents es s).reply = s.reply := rfl

@[simp] theorem withReply_h (r : Reply) (s : State) : (withReply r s).h = s.h := rfl
@[simp] theorem withReply_blk (r : Reply) (s : State) : (withReply r s).blk = s.blk := rfl
@[simp] theorem withReply_w (r : Reply) (s : State) : (withReply r s).w = s.w := rfl
@[simp] theorem withReply_v (r : Reply) (s : State) : (withReply r s).v = s.v := rfl
@[simp] theorem withReply_ivr (r : Reply) (s : State) : (withReply r s).ivr = s.ivr := rfl
@[simp] theorem withReply_k0 (r : Reply) (s : State) : (withReply r s).k0 = s.k0 := rfl
@[simp] theorem withReply_dout (r : Reply) (s : State) : (withReply r s).dout = s.dout := rfl
@[simp] theorem withReply_seq (r : Reply) (s : State) : (withReply r s).seq = s.seq := rfl
@[simp] theorem withReply_cmd (r : Reply) (s : State) : (withReply r s).cmd = s.cmd := rfl
@[simp] theorem withReply_status (r : Reply) (s : State) : (withReply r s).status = s.status := rfl
@[simp] theorem withReply_ien (r : Reply) (s : State) : (withReply r s).ien = s.ien := rfl
@[simp] theorem withReply_variant (r : Reply) (s : State) : (withReply r s).variant = s.variant := rfl
@[simp] theorem withReply_msgLen (r : Reply) (s : State) : (withReply r s).msgLen = s.msgLen := rfl
@[simp] theorem withReply_keyLen (r : Reply) (s : State) : (withReply r s).keyLen = s.keyLen := rfl
@[simp] theorem withReply_bidx (r : Reply) (s : State) : (withReply r s).bidx = s.bidx := rfl
@[simp] theorem withReply_msg (r : Reply) (s : State) : (withReply r s).msg = s.msg := rfl
@[simp] theorem withReply_key (r : Reply) (s : State) : (withReply r s).key = s.key := rfl
@[simp] theorem withReply_params (r : Reply) (s : State) : (withReply r s).params = s.params := rfl
@[simp] theorem withReply_powerUps (r : Reply) (s : State) : (withReply r s).powerUps = s.powerUps := rfl
@[simp] theorem withReply_events (r : Reply) (s : State) : (withReply r s).events = s.events := rfl
@[simp] theorem withReply_reply (r : Reply) (s : State) : (withReply r s).reply = r := rfl

/-! ## accept and finish -/

@[simp] theorem accept_h (c : Word32) (st : Stage) (s : State) : (accept c st s).h = s.h := rfl
@[simp] theorem accept_blk (c : Word32) (st : Stage) (s : State) : (accept c st s).blk = s.blk := rfl
@[simp] theorem accept_w (c : Word32) (st : Stage) (s : State) : (accept c st s).w = s.w := rfl
@[simp] theorem accept_v (c : Word32) (st : Stage) (s : State) : (accept c st s).v = s.v := rfl
@[simp] theorem accept_ivr (c : Word32) (st : Stage) (s : State) : (accept c st s).ivr = s.ivr := rfl
@[simp] theorem accept_k0 (c : Word32) (st : Stage) (s : State) : (accept c st s).k0 = s.k0 := rfl
@[simp] theorem accept_dout (c : Word32) (st : Stage) (s : State) : (accept c st s).dout = s.dout := rfl
@[simp] theorem accept_seq (c : Word32) (st : Stage) (s : State) : (accept c st s).seq = { stage := st, j := 0, t := 0 } := rfl
@[simp] theorem accept_cmd (c : Word32) (st : Stage) (s : State) : (accept c st s).cmd = c := rfl
@[simp] theorem accept_status (c : Word32) (st : Stage) (s : State) : (accept c st s).status = { s.status with busy := true, done := false } := rfl
@[simp] theorem accept_ien (c : Word32) (st : Stage) (s : State) : (accept c st s).ien = s.ien := rfl
@[simp] theorem accept_variant (c : Word32) (st : Stage) (s : State) : (accept c st s).variant = s.variant := rfl
@[simp] theorem accept_msgLen (c : Word32) (st : Stage) (s : State) : (accept c st s).msgLen = s.msgLen := rfl
@[simp] theorem accept_keyLen (c : Word32) (st : Stage) (s : State) : (accept c st s).keyLen = s.keyLen := rfl
@[simp] theorem accept_bidx (c : Word32) (st : Stage) (s : State) : (accept c st s).bidx = s.bidx := rfl
@[simp] theorem accept_msg (c : Word32) (st : Stage) (s : State) : (accept c st s).msg = s.msg := rfl
@[simp] theorem accept_key (c : Word32) (st : Stage) (s : State) : (accept c st s).key = s.key := rfl
@[simp] theorem accept_params (c : Word32) (st : Stage) (s : State) : (accept c st s).params = s.params := rfl
@[simp] theorem accept_powerUps (c : Word32) (st : Stage) (s : State) : (accept c st s).powerUps = s.powerUps := rfl
@[simp] theorem accept_events (c : Word32) (st : Stage) (s : State) : (accept c st s).events = s.events := rfl
@[simp] theorem accept_reply (c : Word32) (st : Stage) (s : State) : (accept c st s).reply = s.reply := rfl

@[simp] theorem finish_h (s : State) : (finish s).h = s.h := rfl
@[simp] theorem finish_blk (s : State) : (finish s).blk = s.blk := rfl
@[simp] theorem finish_w (s : State) : (finish s).w = s.w := rfl
@[simp] theorem finish_v (s : State) : (finish s).v = s.v := rfl
@[simp] theorem finish_ivr (s : State) : (finish s).ivr = s.ivr := rfl
@[simp] theorem finish_k0 (s : State) : (finish s).k0 = s.k0 := rfl
@[simp] theorem finish_dout (s : State) : (finish s).dout = s.dout := rfl
@[simp] theorem finish_seq (s : State) : (finish s).seq = seqIdle := rfl
@[simp] theorem finish_cmd (s : State) : (finish s).cmd = s.cmd := rfl
@[simp] theorem finish_status (s : State) : (finish s).status = { s.status with busy := false, done := true } := rfl
@[simp] theorem finish_ien (s : State) : (finish s).ien = s.ien := rfl
@[simp] theorem finish_variant (s : State) : (finish s).variant = s.variant := rfl
@[simp] theorem finish_msgLen (s : State) : (finish s).msgLen = s.msgLen := rfl
@[simp] theorem finish_keyLen (s : State) : (finish s).keyLen = s.keyLen := rfl
@[simp] theorem finish_bidx (s : State) : (finish s).bidx = s.bidx := rfl
@[simp] theorem finish_msg (s : State) : (finish s).msg = s.msg := rfl
@[simp] theorem finish_key (s : State) : (finish s).key = s.key := rfl
@[simp] theorem finish_params (s : State) : (finish s).params = s.params := rfl
@[simp] theorem finish_powerUps (s : State) : (finish s).powerUps = s.powerUps := rfl
@[simp] theorem finish_events (s : State) : (finish s).events = s.events := rfl
@[simp] theorem finish_reply (s : State) : (finish s).reply = s.reply := rfl

/-! ## taking an error and acknowledging it -/

@[simp] theorem acknowledge_h (d : Word32) (s : State) : (acknowledge d s).h = s.h := rfl
@[simp] theorem acknowledge_blk (d : Word32) (s : State) : (acknowledge d s).blk = s.blk := rfl
@[simp] theorem acknowledge_w (d : Word32) (s : State) : (acknowledge d s).w = s.w := rfl
@[simp] theorem acknowledge_v (d : Word32) (s : State) : (acknowledge d s).v = s.v := rfl
@[simp] theorem acknowledge_ivr (d : Word32) (s : State) : (acknowledge d s).ivr = s.ivr := rfl
@[simp] theorem acknowledge_k0 (d : Word32) (s : State) : (acknowledge d s).k0 = s.k0 := rfl
@[simp] theorem acknowledge_dout (d : Word32) (s : State) : (acknowledge d s).dout = s.dout := rfl
@[simp] theorem acknowledge_seq (d : Word32) (s : State) : (acknowledge d s).seq = s.seq := rfl
@[simp] theorem acknowledge_cmd (d : Word32) (s : State) : (acknowledge d s).cmd = s.cmd := rfl
@[simp] theorem acknowledge_status (d : Word32) (s : State) : (acknowledge d s).status = 
    { busy := s.status.busy, done := s.status.done && !d.getLsbD 1, err := s.status.err && !d.getLsbD 2,
      errcode := if d.getLsbD 2 then 0 else s.status.errcode } := rfl
@[simp] theorem acknowledge_ien (d : Word32) (s : State) : (acknowledge d s).ien = s.ien := rfl
@[simp] theorem acknowledge_variant (d : Word32) (s : State) : (acknowledge d s).variant = s.variant := rfl
@[simp] theorem acknowledge_msgLen (d : Word32) (s : State) : (acknowledge d s).msgLen = s.msgLen := rfl
@[simp] theorem acknowledge_keyLen (d : Word32) (s : State) : (acknowledge d s).keyLen = s.keyLen := rfl
@[simp] theorem acknowledge_bidx (d : Word32) (s : State) : (acknowledge d s).bidx = s.bidx := rfl
@[simp] theorem acknowledge_msg (d : Word32) (s : State) : (acknowledge d s).msg = s.msg := rfl
@[simp] theorem acknowledge_key (d : Word32) (s : State) : (acknowledge d s).key = s.key := rfl
@[simp] theorem acknowledge_params (d : Word32) (s : State) : (acknowledge d s).params = s.params := rfl
@[simp] theorem acknowledge_powerUps (d : Word32) (s : State) : (acknowledge d s).powerUps = s.powerUps := rfl
@[simp] theorem acknowledge_events (d : Word32) (s : State) : (acknowledge d s).events = s.events := rfl
@[simp] theorem acknowledge_reply (d : Word32) (s : State) : (acknowledge d s).reply = s.reply := rfl

@[simp] theorem errorEntry_h (e : ErrCode) (s : State) : (errorEntry e s).h = s.h := by unfold errorEntry; split <;> rfl
@[simp] theorem errorEntry_blk (e : ErrCode) (s : State) : (errorEntry e s).blk = s.blk := by unfold errorEntry; split <;> rfl
@[simp] theorem errorEntry_w (e : ErrCode) (s : State) : (errorEntry e s).w = s.w := by unfold errorEntry; split <;> rfl
@[simp] theorem errorEntry_v (e : ErrCode) (s : State) : (errorEntry e s).v = s.v := by unfold errorEntry; split <;> rfl
@[simp] theorem errorEntry_ivr (e : ErrCode) (s : State) : (errorEntry e s).ivr = s.ivr := by unfold errorEntry; split <;> rfl
@[simp] theorem errorEntry_k0 (e : ErrCode) (s : State) : (errorEntry e s).k0 = s.k0 := by unfold errorEntry; split <;> rfl
@[simp] theorem errorEntry_dout (e : ErrCode) (s : State) : (errorEntry e s).dout = s.dout := by unfold errorEntry; split <;> rfl
@[simp] theorem errorEntry_seq (e : ErrCode) (s : State) : (errorEntry e s).seq = s.seq := by unfold errorEntry; split <;> rfl
@[simp] theorem errorEntry_cmd (e : ErrCode) (s : State) : (errorEntry e s).cmd = s.cmd := by unfold errorEntry; split <;> rfl
@[simp] theorem errorEntry_ien (e : ErrCode) (s : State) : (errorEntry e s).ien = s.ien := by unfold errorEntry; split <;> rfl
@[simp] theorem errorEntry_variant (e : ErrCode) (s : State) : (errorEntry e s).variant = s.variant := by unfold errorEntry; split <;> rfl
@[simp] theorem errorEntry_msgLen (e : ErrCode) (s : State) : (errorEntry e s).msgLen = s.msgLen := by unfold errorEntry; split <;> rfl
@[simp] theorem errorEntry_keyLen (e : ErrCode) (s : State) : (errorEntry e s).keyLen = s.keyLen := by unfold errorEntry; split <;> rfl
@[simp] theorem errorEntry_bidx (e : ErrCode) (s : State) : (errorEntry e s).bidx = s.bidx := by unfold errorEntry; split <;> rfl
@[simp] theorem errorEntry_msg (e : ErrCode) (s : State) : (errorEntry e s).msg = s.msg := by unfold errorEntry; split <;> rfl
@[simp] theorem errorEntry_key (e : ErrCode) (s : State) : (errorEntry e s).key = s.key := by unfold errorEntry; split <;> rfl
@[simp] theorem errorEntry_params (e : ErrCode) (s : State) : (errorEntry e s).params = s.params := by unfold errorEntry; split <;> rfl
@[simp] theorem errorEntry_powerUps (e : ErrCode) (s : State) : (errorEntry e s).powerUps = s.powerUps := by unfold errorEntry; split <;> rfl
@[simp] theorem errorEntry_events (e : ErrCode) (s : State) : (errorEntry e s).events = s.events := by unfold errorEntry; split <;> rfl
@[simp] theorem errorEntry_reply (e : ErrCode) (s : State) : (errorEntry e s).reply = s.reply := by unfold errorEntry; split <;> rfl

@[simp] theorem errorEntry_busy (e : ErrCode) (s : State) : (errorEntry e s).status.busy = s.status.busy := by
  unfold errorEntry; split <;> rfl

@[simp] theorem errorEntry_done (e : ErrCode) (s : State) : (errorEntry e s).status.done = s.status.done := by
  unfold errorEntry; split <;> rfl

@[simp] theorem errorEntry_err (e : ErrCode) (s : State) : (errorEntry e s).status.err = true := by
  unfold errorEntry; split <;> simp_all

theorem errorEntry_of_err {e : ErrCode} {s : State} (h : s.status.err = true) : errorEntry e s = s := by
  simp [errorEntry, h]

theorem errorEntry_of_noErr {e : ErrCode} {s : State} (h : s.status.err = false) :
    errorEntry e s = { s with status := { s.status with err := true, errcode := errCode e } } := by
  simp [errorEntry, h]

/-! ## reset and power-up -/

@[simp] theorem hardReset_h (s : State) : (hardReset s).h = zeros 8 64 := rfl
@[simp] theorem hardReset_blk (s : State) : (hardReset s).blk = zeros 16 64 := rfl
@[simp] theorem hardReset_w (s : State) : (hardReset s).w = zeros 80 64 := rfl
@[simp] theorem hardReset_v (s : State) : (hardReset s).v = zeros 8 64 := rfl
@[simp] theorem hardReset_ivr (s : State) : (hardReset s).ivr = zeros 8 64 := rfl
@[simp] theorem hardReset_k0 (s : State) : (hardReset s).k0 = zeros 128 8 := rfl
@[simp] theorem hardReset_dout (s : State) : (hardReset s).dout = zeros 64 8 := rfl
@[simp] theorem hardReset_seq (s : State) : (hardReset s).seq = seqIdle := rfl
@[simp] theorem hardReset_cmd (s : State) : (hardReset s).cmd = 0 := rfl
@[simp] theorem hardReset_status (s : State) : (hardReset s).status = { busy := false, done := false, err := false, errcode := 0 } := rfl
@[simp] theorem hardReset_ien (s : State) : (hardReset s).ien = { doneIe := false, errIe := false } := rfl
@[simp] theorem hardReset_variant (s : State) : (hardReset s).variant = { valid := false, tag := .sha1, t := 0 } := rfl
@[simp] theorem hardReset_msgLen (s : State) : (hardReset s).msgLen = 0 := rfl
@[simp] theorem hardReset_keyLen (s : State) : (hardReset s).keyLen = 0 := rfl
@[simp] theorem hardReset_bidx (s : State) : (hardReset s).bidx = 0 := rfl
@[simp] theorem hardReset_msg (s : State) : (hardReset s).msg = s.msg := rfl
@[simp] theorem hardReset_key (s : State) : (hardReset s).key = s.key := rfl
@[simp] theorem hardReset_params (s : State) : (hardReset s).params = s.params := rfl
@[simp] theorem hardReset_powerUps (s : State) : (hardReset s).powerUps = s.powerUps := rfl
@[simp] theorem hardReset_events (s : State) : (hardReset s).events = s.events := rfl
@[simp] theorem hardReset_reply (s : State) : (hardReset s).reply = .none := rfl

@[simp] theorem powerUp_h (s : State) : (powerUp s).h = zeros 8 64 := rfl
@[simp] theorem powerUp_blk (s : State) : (powerUp s).blk = zeros 16 64 := rfl
@[simp] theorem powerUp_w (s : State) : (powerUp s).w = zeros 80 64 := rfl
@[simp] theorem powerUp_v (s : State) : (powerUp s).v = zeros 8 64 := rfl
@[simp] theorem powerUp_ivr (s : State) : (powerUp s).ivr = zeros 8 64 := rfl
@[simp] theorem powerUp_k0 (s : State) : (powerUp s).k0 = zeros 128 8 := rfl
@[simp] theorem powerUp_dout (s : State) : (powerUp s).dout = zeros 64 8 := rfl
@[simp] theorem powerUp_seq (s : State) : (powerUp s).seq = seqIdle := rfl
@[simp] theorem powerUp_cmd (s : State) : (powerUp s).cmd = 0 := rfl
@[simp] theorem powerUp_status (s : State) : (powerUp s).status = { busy := false, done := false, err := false, errcode := 0 } := rfl
@[simp] theorem powerUp_ien (s : State) : (powerUp s).ien = { doneIe := false, errIe := false } := rfl
@[simp] theorem powerUp_variant (s : State) : (powerUp s).variant = { valid := false, tag := .sha1, t := 0 } := rfl
@[simp] theorem powerUp_msgLen (s : State) : (powerUp s).msgLen = 0 := rfl
@[simp] theorem powerUp_keyLen (s : State) : (powerUp s).keyLen = 0 := rfl
@[simp] theorem powerUp_bidx (s : State) : (powerUp s).bidx = 0 := rfl
@[simp] theorem powerUp_msg (s : State) : (powerUp s).msg = [] := rfl
@[simp] theorem powerUp_key (s : State) : (powerUp s).key = [] := rfl
@[simp] theorem powerUp_params (s : State) : (powerUp s).params = s.params := rfl
@[simp] theorem powerUp_powerUps (s : State) : (powerUp s).powerUps = s.powerUps + 1 := rfl
@[simp] theorem powerUp_events (s : State) : (powerUp s).events = s.events := rfl
@[simp] theorem powerUp_reply (s : State) : (powerUp s).reply = .none := rfl

/-! ## the wipe of HASH and HMAC -/

@[simp] theorem wipe_h (s : State) : (wipe s).h = s.ivr := rfl
@[simp] theorem wipe_blk (s : State) : (wipe s).blk = zeros 16 64 := rfl
@[simp] theorem wipe_w (s : State) : (wipe s).w = zeros 80 64 := rfl
@[simp] theorem wipe_v (s : State) : (wipe s).v = zeros 8 64 := rfl
@[simp] theorem wipe_ivr (s : State) : (wipe s).ivr = s.ivr := rfl
@[simp] theorem wipe_k0 (s : State) : (wipe s).k0 = s.k0 := rfl
@[simp] theorem wipe_dout (s : State) : (wipe s).dout = s.dout := rfl
@[simp] theorem wipe_seq (s : State) : (wipe s).seq = s.seq := rfl
@[simp] theorem wipe_cmd (s : State) : (wipe s).cmd = s.cmd := rfl
@[simp] theorem wipe_status (s : State) : (wipe s).status = s.status := rfl
@[simp] theorem wipe_ien (s : State) : (wipe s).ien = s.ien := rfl
@[simp] theorem wipe_variant (s : State) : (wipe s).variant = s.variant := rfl
@[simp] theorem wipe_msgLen (s : State) : (wipe s).msgLen = s.msgLen := rfl
@[simp] theorem wipe_keyLen (s : State) : (wipe s).keyLen = s.keyLen := rfl
@[simp] theorem wipe_bidx (s : State) : (wipe s).bidx = s.bidx := rfl
@[simp] theorem wipe_msg (s : State) : (wipe s).msg = s.msg := rfl
@[simp] theorem wipe_key (s : State) : (wipe s).key = s.key := rfl
@[simp] theorem wipe_params (s : State) : (wipe s).params = s.params := rfl
@[simp] theorem wipe_powerUps (s : State) : (wipe s).powerUps = s.powerUps := rfl
@[simp] theorem wipe_events (s : State) : (wipe s).events = s.events := rfl
@[simp] theorem wipe_reply (s : State) : (wipe s).reply = s.reply := rfl

/-! ## window stores -/

@[simp] theorem memStore_h (sp : Space) (a : Nat) (bs : List Byte) (s : State) : (memStore s sp a bs).h = s.h := by cases sp <;> rfl
@[simp] theorem memStore_blk (sp : Space) (a : Nat) (bs : List Byte) (s : State) : (memStore s sp a bs).blk = s.blk := by cases sp <;> rfl
@[simp] theorem memStore_w (sp : Space) (a : Nat) (bs : List Byte) (s : State) : (memStore s sp a bs).w = s.w := by cases sp <;> rfl
@[simp] theorem memStore_v (sp : Space) (a : Nat) (bs : List Byte) (s : State) : (memStore s sp a bs).v = s.v := by cases sp <;> rfl
@[simp] theorem memStore_ivr (sp : Space) (a : Nat) (bs : List Byte) (s : State) : (memStore s sp a bs).ivr = s.ivr := by cases sp <;> rfl
@[simp] theorem memStore_k0 (sp : Space) (a : Nat) (bs : List Byte) (s : State) : (memStore s sp a bs).k0 = s.k0 := by cases sp <;> rfl
@[simp] theorem memStore_dout (sp : Space) (a : Nat) (bs : List Byte) (s : State) : (memStore s sp a bs).dout = s.dout := by cases sp <;> rfl
@[simp] theorem memStore_seq (sp : Space) (a : Nat) (bs : List Byte) (s : State) : (memStore s sp a bs).seq = s.seq := by cases sp <;> rfl
@[simp] theorem memStore_cmd (sp : Space) (a : Nat) (bs : List Byte) (s : State) : (memStore s sp a bs).cmd = s.cmd := by cases sp <;> rfl
@[simp] theorem memStore_status (sp : Space) (a : Nat) (bs : List Byte) (s : State) : (memStore s sp a bs).status = s.status := by cases sp <;> rfl
@[simp] theorem memStore_ien (sp : Space) (a : Nat) (bs : List Byte) (s : State) : (memStore s sp a bs).ien = s.ien := by cases sp <;> rfl
@[simp] theorem memStore_variant (sp : Space) (a : Nat) (bs : List Byte) (s : State) : (memStore s sp a bs).variant = s.variant := by cases sp <;> rfl
@[simp] theorem memStore_msgLen (sp : Space) (a : Nat) (bs : List Byte) (s : State) : (memStore s sp a bs).msgLen = s.msgLen := by cases sp <;> rfl
@[simp] theorem memStore_keyLen (sp : Space) (a : Nat) (bs : List Byte) (s : State) : (memStore s sp a bs).keyLen = s.keyLen := by cases sp <;> rfl
@[simp] theorem memStore_bidx (sp : Space) (a : Nat) (bs : List Byte) (s : State) : (memStore s sp a bs).bidx = s.bidx := by cases sp <;> rfl
@[simp] theorem memStore_params (sp : Space) (a : Nat) (bs : List Byte) (s : State) : (memStore s sp a bs).params = s.params := by cases sp <;> rfl
@[simp] theorem memStore_powerUps (sp : Space) (a : Nat) (bs : List Byte) (s : State) : (memStore s sp a bs).powerUps = s.powerUps := by cases sp <;> rfl
@[simp] theorem memStore_events (sp : Space) (a : Nat) (bs : List Byte) (s : State) : (memStore s sp a bs).events = s.events := by cases sp <;> rfl
@[simp] theorem memStore_reply (sp : Space) (a : Nat) (bs : List Byte) (s : State) : (memStore s sp a bs).reply = s.reply := by cases sp <;> rfl

@[simp] theorem memStore_msg_msg (s : State) (a : Nat) (bs : List Byte) : (memStore s .msg a bs).msg = memSetAll s.msg a bs := rfl
@[simp] theorem memStore_msg_key (s : State) (a : Nat) (bs : List Byte) : (memStore s .msg a bs).key = s.key := rfl
@[simp] theorem memStore_key_key (s : State) (a : Nat) (bs : List Byte) : (memStore s .key a bs).key = memSetAll s.key a bs := rfl
@[simp] theorem memStore_key_msg (s : State) (a : Nat) (bs : List Byte) : (memStore s .key a bs).msg = s.msg := rfl

/-! ## mapNext -/

@[simp] theorem mapNext_next (f : State → State) (s : State) : mapNext f (.next s) = .next (f s) := rfl
@[simp] theorem mapNext_fault (f : State → State) (r : Fault) : mapNext f (.fault r) = .fault r := rfl
@[simp] theorem mapNext_refused (f : State → State) (r : Refusal) : mapNext f (.refused r) = .refused r := rfl

end Sys2Proof.Machine
end

