-- ==== Sys2Proof/Laws/Memory.lean ====
section
/-! SUPPORT. The byte memories: a read after a write, canonical form and bounds kept by every memory operation, and the memory as the state reads it. -/

namespace Sys2Proof.Machine

@[simp] theorem memGet_memSet_same (m : List Host.Cell) (a : Nat) (b : Byte) : memGet (memSet m a b) a = some b := by
  induction m with
  | nil => simp [memSet, memGet]
  | cons c m ih =>
    obtain ⟨x, y⟩ := c
    simp only [memSet]
    split
    · simp [memGet]
    · split
      · simp [memGet]
      · rename_i h1 h2
        simp [memGet, ih, Ne.symm h2]

theorem memGet_memSet_other {m : List Host.Cell} {a x : Nat} (b : Byte) (h : x ≠ a) :
    memGet (memSet m a b) x = memGet m x := by
  induction m with
  | nil => simp [memSet, memGet, Ne.symm h]
  | cons c m ih =>
    obtain ⟨y, z⟩ := c
    simp only [memSet]
    split
    · simp [memGet, Ne.symm h]
    · split
      · rename_i h1 h2
        subst h2
        simp [memGet, Ne.symm h]
      · simp [memGet, ih]

/-- Every address listed after a write is the written one or was listed before. -/
theorem mem_memSet {m : List Host.Cell} {a : Nat} {b : Byte} {c : Host.Cell} (h : c ∈ memSet m a b) :
    c = (a, b) ∨ c ∈ m := by
  induction m with
  | nil => simpa [memSet] using h
  | cons d m ih =>
    obtain ⟨x, y⟩ := d
    simp only [memSet] at h
    split at h
    · simpa using h
    · split at h
      · simp only [List.mem_cons] at h ⊢
        tauto
      · simp only [List.mem_cons] at h ⊢
        rcases h with h | h
        · tauto
        · rcases ih h with h | h <;> tauto

theorem memSet_wf {m : List Host.Cell} (a : Nat) (b : Byte) (h : memWf m) : memWf (memSet m a b) := by
  induction m with
  | nil => simp [memSet, memWf]
  | cons c m ih =>
    obtain ⟨x, y⟩ := c
    obtain ⟨hx, hm⟩ := List.pairwise_cons.mp h
    simp only [memSet]
    split
    · rename_i hlt
      refine List.pairwise_cons.mpr ⟨fun d hd => ?_, h⟩
      rcases List.mem_cons.mp hd with rfl | hd
      · exact hlt
      · exact Nat.lt_trans hlt (hx d hd)
    · split
      · rename_i h1 h2
        subst h2
        exact List.pairwise_cons.mpr ⟨hx, hm⟩
      · refine List.pairwise_cons.mpr ⟨fun d hd => ?_, ih hm⟩
        rcases mem_memSet hd with rfl | hd
        · show x < a
          omega
        · exact hx d hd

theorem memSetAll_wf {m : List Host.Cell} (a : Nat) (bs : List Byte) (h : memWf m) : memWf (memSetAll m a bs) := by
  induction bs generalizing m a with
  | nil => exact h
  | cons b bs ih => exact ih _ (memSet_wf a b h)

theorem mem_memSetAll_bound {m : List Host.Cell} {a cap : Nat} {bs : List Byte}
    (hm : ∀ c ∈ m, c.1 < cap) (hb : a + bs.length ≤ cap) : ∀ c ∈ memSetAll m a bs, c.1 < cap := by
  induction bs generalizing m a with
  | nil => exact hm
  | cons b bs ih =>
    simp only [List.length_cons] at hb
    refine ih (fun c hc => ?_) (by omega)
    rcases mem_memSet hc with rfl | hc
    · show a < cap
      omega
    · exact hm c hc

/-- A read outside the written bytes gives what it gave before. -/
theorem memGet_memSetAll_other {m : List Host.Cell} {a x : Nat} {bs : List Byte} (h : x < a ∨ a + bs.length ≤ x) :
    memGet (memSetAll m a bs) x = memGet m x := by
  induction bs generalizing m a with
  | nil => rfl
  | cons b bs ih =>
    simp only [List.length_cons] at h
    rw [memSetAll, ih (by omega), memGet_memSet_other b (by omega)]

/-- A read of a written byte gives it. -/
theorem memGet_memSetAll_same {m : List Host.Cell} {a i : Nat} {bs : List Byte} (h : i < bs.length) :
    memGet (memSetAll m a bs) (a + i) = some bs[i] := by
  induction bs generalizing m a i with
  | nil => simp at h
  | cons b bs ih =>
    cases i with
    | zero => rw [memSetAll, memGet_memSetAll_other (by omega)]; simp
    | succ i =>
      rw [memSetAll, show a + (i + 1) = a + 1 + i by omega]
      simpa using ih (m := memSet m a b) (a := a + 1) (i := i) (by simpa using h)

@[simp] theorem memRead_length (s : State) (sp : Space) (a n : Nat) : (memRead s sp a n).length = n := by
  simp [memRead]

/-- What a read of a byte depends on. -/
theorem readByte_congr {s t : State} {sp : Space} {a : Nat} (hm : memGet (memOf s sp) a = memGet (memOf t sp) a)
    (hp : s.powerUps = t.powerUps) : readByte s sp a = readByte t sp a := by
  simp [readByte, hm, hp]

theorem memRead_congr {s t : State} {sp : Space} (a n : Nat) (hm : memOf s sp = memOf t sp) (hp : s.powerUps = t.powerUps) :
    memRead s sp a n = memRead t sp a n := by
  simp [memRead, readByte, hm, hp]

theorem message_congr {s t : State} (hm : s.msg = t.msg) (hl : s.msgLen = t.msgLen) (hp : s.powerUps = t.powerUps) :
    message s = message t := by
  simp only [message, hl]
  exact memRead_congr _ _ hm hp

theorem keyBytes_congr {s t : State} (hm : s.key = t.key) (hl : s.keyLen = t.keyLen) (hp : s.powerUps = t.powerUps) :
    keyBytes s = keyBytes t := by
  simp only [keyBytes, hl]
  exact memRead_congr _ _ hm hp

@[simp] theorem message_length (s : State) : (message s).length = s.msgLen.toNat := by simp [message]

@[simp] theorem keyBytes_length (s : State) : (keyBytes s).length = s.keyLen.toNat := by simp [keyBytes]

/-! ## canonical form -/

theorem reset_memWf : memWf State.reset.msg ∧ memWf State.reset.key := ⟨List.Pairwise.nil, List.Pairwise.nil⟩

/-- A store keeps the canonical form of both memories. -/
theorem memStore_wf {s : State} (sp : Space) (a : Nat) (bs : List Byte) (hm : memWf s.msg) (hk : memWf s.key) :
    memWf (memStore s sp a bs).msg ∧ memWf (memStore s sp a bs).key := by
  cases sp with
  | msg => exact ⟨memSetAll_wf a bs hm, hk⟩
  | key => exact ⟨hm, memSetAll_wf a bs hk⟩

/-- A byte read after a store: the stored byte inside, what it was outside (another memory, or another address). -/
theorem readByte_memStore_same {s : State} {sp : Space} {a i : Nat} {bs : List Byte} (h : i < bs.length) :
    readByte (memStore s sp a bs) sp (a + i) = bs[i] := by
  cases sp <;> simp [readByte, memOf, memStore, memGet_memSetAll_same h]

theorem readByte_memStore_other {s : State} {sp sp' : Space} {a x : Nat} {bs : List Byte}
    (h : sp' ≠ sp ∨ x < a ∨ a + bs.length ≤ x) : readByte (memStore s sp a bs) sp' x = readByte s sp' x := by
  refine readByte_congr ?_ (by cases sp <;> rfl)
  cases sp <;> cases sp' <;> simp_all [memOf, memStore, memGet_memSetAll_other]

end Sys2Proof.Machine
end

