-- ==== Sys2Proof/Laws/Exec.lean ====
section
/-! SUPPORT. What `command`, `exec`, the port and `step` can do, one lemma per case, for proofs to cite instead of unfolding them. -/

namespace Sys2Proof.Machine

/-! ## the two steps of a command -/

theorem command_inFlight {c : Word32} {st : Stage} {cs : List (Option ErrCode)} {f : State → State} {s : State}
    (h : s.status.busy = true) : command c st cs f s = .next (finish (f s)) := by
  simp [command, h]

theorem command_ignored {c : Word32} {st : Stage} {cs : List (Option ErrCode)} {f : State → State} {s : State}
    (hb : s.status.busy = false) (he : s.status.err = true) : command c st cs f s = .next s := by
  simp [command, hb, he]

theorem command_error {c : Word32} {st : Stage} {cs : List (Option ErrCode)} {f : State → State} {s : State} {e : ErrCode}
    (hb : s.status.busy = false) (he : s.status.err = false) (hc : firstError cs = some e) :
    command c st cs f s = .next (errorEntry e s) := by
  simp [command, hb, he, hc]

theorem command_accept {c : Word32} {st : Stage} {cs : List (Option ErrCode)} {f : State → State} {s : State}
    (hb : s.status.busy = false) (he : s.status.err = false) (hc : firstError cs = none) :
    command c st cs f s = .next (accept c st s) := by
  simp [command, hb, he, hc]

/-- Everything `command` can do. -/
theorem command_cases (c : Word32) (st : Stage) (cs : List (Option ErrCode)) (f : State → State) (s : State) :
    (s.status.busy = true ∧ command c st cs f s = .next (finish (f s))) ∨
    (s.status.busy = false ∧ s.status.err = true ∧ command c st cs f s = .next s) ∨
    (s.status.busy = false ∧ s.status.err = false ∧ ∃ e, firstError cs = some e ∧ command c st cs f s = .next (errorEntry e s)) ∨
    (s.status.busy = false ∧ s.status.err = false ∧ firstError cs = none ∧ command c st cs f s = .next (accept c st s)) := by
  cases hb : s.status.busy with
  | true => exact .inl ⟨rfl, command_inFlight hb⟩
  | false =>
    cases he : s.status.err with
    | true => exact .inr (.inl ⟨rfl, rfl, command_ignored hb he⟩)
    | false =>
      cases hc : firstError cs with
      | some e => exact .inr (.inr (.inl ⟨rfl, rfl, e, rfl, command_error hb he hc⟩))
      | none => exact .inr (.inr (.inr ⟨rfl, rfl, rfl, command_accept hb he hc⟩))

/-- The whole effect of a command, by name. -/
def effectOf : Instr → State → State
  | .nop => fun s => s
  | .setvar tag t => setvarEffect tag t
  | .init => initEffect
  | .padblk => padblkEffect
  | .expand => expandEffect
  | .compress => compressEffect
  | .block => blockEffect
  | .output => outputEffect
  | .hash => hashEffect
  | .hmac => hmacEffect
  | .clear => clearEffect

/-- The first micro-operation of a command, by name. -/
def startStage : Instr → Stage
  | .nop => .idle
  | .setvar tag _ => setvarStage tag
  | .init => .idle
  | .padblk => .idle
  | .expand => .uCOPY
  | .compress => .uLOAD
  | .block => .uCOPY
  | .output => .idle
  | .hash => .uINIT
  | .hmac => .uKEY
  | .clear => .idle

/-- The acceptance checks of a command in order, by name. -/
def checksOf (i : Instr) (s : State) : List (Option ErrCode) :=
  match i with
  | .nop => []
  | .setvar tag t => [checkRsvd tag t, checkT tag t]
  | .init => [checkVariant s]
  | .padblk => [checkVariant s, checkMsgLen s, checkBidx s]
  | .expand => [checkVariant s]
  | .compress => [checkVariant s]
  | .block => [checkVariant s]
  | .output => [checkVariant s]
  | .hash => [checkVariant s, checkMsgLen s]
  | .hmac => [checkVariant s, checkMsgLen s, checkKeyLen s]
  | .clear => []

/-- Every arm of `exec` is the life cycle with its own checks and effect. -/
theorem exec_eq_command (i : Instr) (s : State) :
    exec i s = command (encode i) (startStage i) (checksOf i s) (effectOf i) s := by
  cases i <;> rfl

/-- A command in flight completes with its whole effect. -/
theorem exec_inFlight {s : State} (i : Instr) (h : s.status.busy = true) : exec i s = .next (finish (effectOf i s)) := by
  rw [exec_eq_command]; exact command_inFlight h

/-- `exec` always answers a next state. -/
theorem exec_next (i : Instr) (s : State) : ∃ t, exec i s = .next t := by
  rw [exec_eq_command]
  rcases command_cases (encode i) (startStage i) (checksOf i s) (effectOf i) s with h | h | ⟨_, _, e, _, h⟩ | h
  · exact ⟨_, h.2⟩
  · exact ⟨_, h.2.2⟩
  · exact ⟨_, h⟩
  · exact ⟨_, h.2.2.2⟩

/-- What no effect writes: the memories, the length registers, IEN, CMD, STATUS, SEQ and the model's own fields. -/
theorem effectOf_frame (i : Instr) (s : State) :
    (effectOf i s).msg = s.msg ∧ (effectOf i s).key = s.key ∧ (effectOf i s).msgLen = s.msgLen ∧
    (effectOf i s).keyLen = s.keyLen ∧ (effectOf i s).bidx = s.bidx ∧ (effectOf i s).ien = s.ien ∧
    (effectOf i s).cmd = s.cmd ∧ (effectOf i s).status = s.status ∧ (effectOf i s).seq = s.seq ∧
    (effectOf i s).params = s.params ∧ (effectOf i s).powerUps = s.powerUps ∧ (effectOf i s).events = s.events ∧
    (effectOf i s).reply = s.reply := by
  cases i <;> exact ⟨rfl, rfl, rfl, rfl, rfl, rfl, rfl, rfl, rfl, rfl, rfl, rfl, rfl⟩

/-- Only SETVAR writes VARIANT and IVR. -/
theorem effectOf_variant {i : Instr} (s : State) (h : ∀ tag x, i ≠ .setvar tag x) :
    (effectOf i s).variant = s.variant ∧ (effectOf i s).ivr = s.ivr := by
  cases i with
  | setvar tag x => exact absurd rfl (h tag x)
  | _ => exact ⟨rfl, rfl⟩

/-- No effect reads STATUS, IEN, the port's answer or the events. -/
theorem effectOf_congr (i : Instr) (s : State) (st : Status) (ie : IntEnable) (r : Reply) (es : List Event) :
    effectOf i { s with status := st, ien := ie, reply := r, events := es } =
      { effectOf i s with status := st, ien := ie, reply := r, events := es } := by
  cases i <;> rfl

/-! ## the step -/

theorem step_nil {s : State} (h : s.events = []) : step s = engineTurn s := by
  simp [step, advance, h]

theorem step_cons {s : State} {e : Event} {es : List Event} (h : s.events = e :: es) :
    step s = perform e (withEvents es s) := by
  simp [step, advance, h]

theorem engineTurn_idle {s : State} (h : s.status.busy = false) : engineTurn s = .next s := by
  simp [engineTurn, h]

theorem engineTurn_inFlight {s : State} {i : Instr} (h : s.status.busy = true) (hd : decode s.cmd = .ok i) :
    engineTurn s = .next (finish (effectOf i s)) := by
  simp [engineTurn, h, hd, exec_inFlight i h]

@[simp] theorem target4_cmd (p : Config.Params) : target4 p 0x004 = some (.ctrl .cmd) := rfl
@[simp] theorem target4_status (p : Config.Params) : target4 p 0x008 = some (.ctrl .status) := rfl
@[simp] theorem target4_ien (p : Config.Params) : target4 p 0x00C = some (.ctrl .ien) := rfl
@[simp] theorem target4_msgLen (p : Config.Params) : target4 p 0x014 = some (.ctrl .msgLen) := rfl
@[simp] theorem target4_keyLen (p : Config.Params) : target4 p 0x018 = some (.ctrl .keyLen) := rfl
@[simp] theorem target4_bidx (p : Config.Params) : target4 p 0x01C = some (.ctrl .bidx) := rfl

/-- Everything a write to a mapped target can do. -/
theorem writeTarget_cases (s : State) (t : Target) (d : Word32) (bs : List Byte) :
    (t = .ctrl .status ∧ writeTarget s t d bs = .next (acknowledge d s)) ∨
    (t = .ctrl .ien ∧ writeTarget s t d bs = .next { s with ien := ienOf d }) ∨
    (t ≠ .ctrl .status ∧ t ≠ .ctrl .ien ∧ s.status.busy = true ∧ writeTarget s t d bs = .next (errorEntry .eBusy s)) ∨
    (t ≠ .ctrl .status ∧ t ≠ .ctrl .ien ∧ s.status.busy = false ∧ writeTarget s t d bs = writeIdle s t d bs) := by
  by_cases h1 : t = .ctrl .status
  · exact .inl ⟨h1, by simp [writeTarget, h1]⟩
  · by_cases h2 : t = .ctrl .ien
    · exact .inr (.inl ⟨h2, by simp [writeTarget, h2]⟩)
    · cases hb : s.status.busy with
      | true => exact .inr (.inr (.inl ⟨h1, h2, rfl, by simp [writeTarget, h1, h2, hb]⟩))
      | false => exact .inr (.inr (.inr ⟨h1, h2, rfl, by simp [writeTarget, h1, h2, hb]⟩))

/-- Everything the issue of a word can do. -/
theorem issue_cases (c : Word32) (s : State) :
    (s.status.err = true ∧ issue c s = .next s) ∨
    (s.status.err = false ∧ ∃ e, decode c = .error e ∧ issue c s = .next (errorEntry e s)) ∨
    (s.status.err = false ∧ ∃ i, decode c = .ok i ∧ issue c s = exec i s) := by
  cases he : s.status.err with
  | true => exact .inl ⟨rfl, by simp [issue, he]⟩
  | false =>
    cases hd : decode c with
    | error e => exact .inr (.inl ⟨rfl, e, rfl, by simp [issue, he, hd]⟩)
    | ok i => exact .inr (.inr ⟨rfl, i, rfl, by simp [issue, he, hd]⟩)

/-- Everything a write transaction can do. -/
theorem hostWrite_cases (s : State) (o : Option Target) (d : Word32) (bs : List Byte) :
    (o = none ∧ hostWrite s o d bs = .next (withReply (.write .busErr) s)) ∨
    (∃ t, o = some t ∧ hostWrite s o d bs = mapNext (withReply (.write .ok)) (writeTarget s t d bs)) := by
  cases o with
  | none => exact .inl ⟨rfl, rfl⟩
  | some t => exact .inr ⟨t, rfl, rfl⟩

/-- A read transaction answers, and changes nothing else. -/
theorem hostRead_eq (s : State) (o : Option Target) (f : State → Target → Word32) :
    ∃ r, hostRead s o f = .next (withReply r s) := by
  cases o with
  | none => exact ⟨_, rfl⟩
  | some t => exact ⟨_, rfl⟩

/-- A write to an idle engine always answers a next state. -/
theorem writeIdle_next (s : State) (t : Target) (d : Word32) (bs : List Byte) : ∃ u, writeIdle s t d bs = .next u := by
  cases t with
  | ctrl r =>
    cases r with
    | cmd =>
      rcases issue_cases d s with h | ⟨_, e, _, h⟩ | ⟨_, i, _, h⟩
      · exact ⟨_, h.2⟩
      · exact ⟨_, h⟩
      · obtain ⟨u, hu⟩ := exec_next i s
        exact ⟨u, h.trans hu⟩
    | _ => exact ⟨_, rfl⟩
  | _ => exact ⟨_, rfl⟩

/-- A write to a mapped target always answers a next state. -/
theorem writeTarget_next (s : State) (t : Target) (d : Word32) (bs : List Byte) : ∃ u, writeTarget s t d bs = .next u := by
  rcases writeTarget_cases s t d bs with h | h | h | h
  · exact ⟨_, h.2⟩
  · exact ⟨_, h.2⟩
  · exact ⟨_, h.2.2.2⟩
  · obtain ⟨u, hu⟩ := writeIdle_next s t d bs
    exact ⟨u, h.2.2.2.trans hu⟩

end Sys2Proof.Machine
end

