-- ==== Sys2Proof/Laws/Files.lean ====
section
/-! SUPPORT. Register files element by element, and the lengths of the byte and word lists of the codec, the schedule and the digest. -/

namespace Sys2Proof

@[simp] theorem regFile_getElem {α : Type} {n : Nat} (f : Nat → α) (i : Nat) (h : i < n) : (regFile n f)[i] = f i := by
  simp [regFile]

@[simp] theorem regFile_toList {α : Type} (n : Nat) (f : Nat → α) : (regFile n f).toList = (List.range n).map f := by
  simp [regFile]

namespace Machine

@[simp] theorem zeros_getElem {n k : Nat} (i : Nat) (h : i < n) : (zeros n k)[i] = 0 := by
  simp [zeros]

@[simp] theorem truncFile_getElem {n : Nat} (w : Nat) (r : Vector Reg64 n) (i : Nat) (h : i < n) :
    (truncFile w r)[i] = r[i].setWidth w := by
  simp [truncFile]

@[simp] theorem zextFile_getElem {n w : Nat} (r : Vector (BitVec w) n) (i : Nat) (h : i < n) :
    (zextFile r)[i] = r[i].setWidth 64 := by
  simp [zextFile]

@[simp] theorem doutOf_getElem (d : List Byte) (i : Nat) (h : i < 64) : (doutOf d)[i] = d.getD i 0 := by
  simp [doutOf]

@[simp] theorem blockAt_getElem {w : Nat} (ws : List (BitVec w)) (j i : Nat) (h : i < 16) :
    (blockAt ws j)[i] = ws.getD (16 * j + i) 0 := by
  simp [blockAt]

/-- A Word narrower than a register survives the trip through it (10 R21). -/
theorem setWidth_setWidth_64 {w : Nat} (h : w ≤ 64) (x : BitVec w) : (x.setWidth 64).setWidth w = x := by
  simp [BitVec.setWidth_setWidth_of_le x h]

theorem truncFile_zextFile {w n : Nat} (h : w ≤ 64) (r : Vector (BitVec w) n) : truncFile w (zextFile r) = r := by
  ext i hi : 1
  simp [setWidth_setWidth_64 h]

theorem tagW_le (tag : VariantTag) : tagW tag ≤ 64 := by cases tag <;> decide

theorem tagN_le (tag : VariantTag) : tagN tag ≤ 80 := by cases tag <;> decide

theorem tagSw_le (tag : VariantTag) : tagSw tag ≤ 8 := by cases tag <;> decide

@[simp] theorem wordToBytes_length {w : Nat} (x : BitVec w) : (wordToBytes x).length = wordBytes w := by
  simp [wordToBytes]

@[simp] theorem wordsToBytes_length {w : Nat} (ws : List (BitVec w)) :
    (wordsToBytes ws).length = ws.length * wordBytes w := by
  induction ws with
  | nil => simp [wordsToBytes]
  | cons x ws ih =>
    simp only [wordsToBytes, List.flatMap_cons, List.length_append, wordToBytes_length, List.length_cons] at ih ⊢
    rw [ih]
    ring

theorem outputBytes_length {w : Nat} (a : Algo) (dlen : Nat) (st : Vector (BitVec w) 8) :
    (outputBytes a dlen st).length = min dlen (min a.sw 8 * wordBytes w) := by
  simp [outputBytes]

/-- A fold that appends one element a turn: its length. -/
theorem foldl_append_length {α β : Type} (g : List α → β → α) (l : List β) (S : List α) :
    (l.foldl (fun S b => S ++ [g S b]) S).length = S.length + l.length := by
  induction l generalizing S with
  | nil => simp
  | cons b l ih => rw [List.foldl_cons, ih]; simp; omega

/-- A fold that appends one element a turn keeps what it starts from. -/
theorem foldl_append_prefix {α β : Type} (g : List α → β → α) (l : List β) (S : List α) :
    ∃ r, l.foldl (fun S b => S ++ [g S b]) S = S ++ r := by
  induction l generalizing S with
  | nil => exact ⟨[], by simp⟩
  | cons b l ih =>
    obtain ⟨r, hr⟩ := ih (S ++ [g S b])
    exact ⟨g S b :: r, by rw [List.foldl_cons, hr]; simp⟩

end Machine

end Sys2Proof
end

