-- ==== Sys2Proof/Laws/PerInstr.lean ====
section
/-! SUPPORT. Statements for all commands, one lemma per constructor. -/

namespace Sys2Proof.Laws.EncodeFields

/-- The opcode of a command (30 R92). -/
def opcode : Instr → BitVec 4
  | .nop => 0x0
  | .setvar _ _ => 0x1
  | .init => 0x2
  | .padblk => 0x3
  | .expand => 0x4
  | .compress => 0x5
  | .block => 0x6
  | .output => 0x7
  | .hash => 0x8
  | .hmac => 0x9
  | .clear => 0xA

/-- The word of a command has its opcode in bits 31:28 (30 R90, R92). -/
def Statement (i : Instr) : Prop := fieldOp (encode i) = opcode i

theorem nop : Statement .nop := by rfl
theorem init : Statement .init := by rfl
theorem padblk : Statement .padblk := by rfl
theorem expand : Statement .expand := by rfl
theorem compress : Statement .compress := by rfl
theorem block : Statement .block := by rfl
theorem output : Statement .output := by rfl
theorem hash : Statement .hash := by rfl
theorem hmac : Statement .hmac := by rfl
theorem clear : Statement .clear := by rfl

theorem setvar (tag : VariantTag) (t : BitVec 10) : Statement (.setvar tag t) := by
  unfold Statement fieldOp encode opcode
  ext k hk
  simp only [BitVec.getElem_extractLsb', BitVec.getLsbD_append]
  have h1 : ¬ 28 + k < 28 := by omega
  have h2 : 28 + k - 28 = k := by omega
  simp only [show (4 + (14 + 10) : Nat) = 28 from rfl, h1, h2]
  simp [hk]

end Sys2Proof.Laws.EncodeFields
end

