-- ==== Sys2Proof/Laws/Script.lean ====
section
/-! SUPPORT. What the actions of a host script do: one action is `perform` of its event, a read answers and changes nothing else,
and a list of actions splits where one likes. -/

namespace Sys2Proof.Machine

/-- The next state of an outcome, if it is one. -/
def nextState : Host.Outcome State Fault Refusal → Option State
  | .next t => some t
  | .fault _ => none
  | .refused _ => none

/-- An action is its event performed on the state itself: the step takes off the event that the action put on. -/
theorem act_eq_perform (e : Event) (s : State) : act e s = nextState (perform e s) := by
  have h : step (withEvents (e :: s.events) s) = perform e s := step_cons rfl
  rw [act, h]
  cases perform e s <;> rfl

/-- A 4-byte read always ends, with only the answer changed. -/
theorem act_rd32 (a : HostAddr) (s : State) : ∃ r, act (.rd32 a) s = some (withReply r s) := by
  obtain ⟨r, hr⟩ := hostRead_eq s (target4 s.params a) read4
  exact ⟨r, by rw [act_eq_perform]; simp [perform, hr, nextState]⟩

/-- A poll answers STATUS as it stands. -/
theorem act_poll (s : State) : act scriptPoll s = some (withReply (.read (statusWord s.status) .ok) s) := by
  rw [act_eq_perform]
  rfl

/-- Bit 0 of STATUS is BUSY (10 R34). -/
theorem statusWord_busy (st : Status) : (statusWord st).getLsbD 0 = st.busy := by
  cases hb : st.busy <;> simp only [statusWord, flagBit, BitVec.getLsbD_append, hb] <;> rfl

/-- A poll by its case: WAIT ends where nothing is in flight, and goes on where something is (30 R100). -/
theorem pollThen_idle {s : State} (goOn : State → Option State) (h : s.status.busy = false) :
    pollThen goOn s = some (withReply (.read (statusWord s.status) .ok) s) := by
  simp only [pollThen, act_poll, replyData, Option.bind_some, withReply, statusWord_busy, h, Bool.false_eq_true, if_false]

theorem pollThen_busy {s : State} (goOn : State → Option State) (h : s.status.busy = true) :
    pollThen goOn s = goOn (withReply (.read (statusWord s.status) .ok) s) := by
  simp only [pollThen, act_poll, replyData, Option.bind_some, withReply, statusWord_busy, h, if_true]

/-- The turn of an idle engine does nothing. -/
theorem act_engine_idle {s : State} (h : s.status.busy = false) : act .engine s = some s := by
  rw [act_eq_perform, perform, engineTurn_idle h]
  rfl

/-- The turn of the engine completes the command in flight. -/
theorem act_engine_inFlight {s : State} {i : Instr} (h : s.status.busy = true) (hd : decode s.cmd = .ok i) :
    act .engine s = some (finish (effectOf i s)) := by
  rw [act_eq_perform, perform, engineTurn_inFlight h hd]
  rfl

theorem actAll_append (es fs : List Event) (s : State) : actAll (es ++ fs) s = (actAll es s).bind (actAll fs) := by
  induction es generalizing s with
  | nil => rfl
  | cons e es ih =>
    simp only [List.cons_append, actAll]
    cases act e s with
    | none => rfl
    | some t => simpa using ih t

end Sys2Proof.Machine
end

