-- ==== Sys2Proof/Tests/Slice0.lean ====
section
/-! SUPPORT. Tests: the decoding of every command from a written-out word, ill-formed commands refused, one step of every command
against spec/95_test_vectors.md, and a witness for the hypotheses of every statement that has some. -/

namespace Sys2Proof.Tests

set_option Elab.async false

open Sys2Proof.Machine Sys2Proof.Safety

/-! ## Helpers -/

/-- The next state, or the reset state where there is none. -/
def nextOf : Host.Outcome State Fault Refusal → State
  | .next s => s
  | .fault _ => State.reset
  | .refused _ => State.reset

/-- A memory of the bytes of `bs` from address 0 on. -/
def cells (bs : List Byte) : List Host.Cell := (List.range bs.length).map (fun i => (i, bs.getD i 0))

/-- An idle engine under a ROM variant, with a message and a key loaded and IVR from SETVAR. -/
def loaded (tag : VariantTag) (msg key : List Byte) : State :=
  { State.reset with
    variant := { valid := true, tag := tag, t := 0 }
    ivr := variantIv tag 0, h := variantIv tag 0
    msg := cells msg, msgLen := BitVec.ofNat 32 msg.length
    key := cells key, keyLen := BitVec.ofNat 32 key.length }

/-- The same state with the command `i` in flight. -/
def inFlight (i : Instr) (s : State) : State :=
  { s with cmd := encode i, status := { s.status with busy := true, done := false } }

/-- "abc". -/
def abc : List Byte := [0x61, 0x62, 0x63]

/-- The padded Block of "abc" for 32-bit Words (95 V3). -/
def abcBlock : Vector Reg64 16 := #v[0x61626380, 0, 0, 0, 0, 0, 0, 0, 0, 0, 0, 0, 0, 0, 0, 0x18]

/-- The state of 95 V4 and V6: SHA-256 with the Block of "abc" in BLK. -/
def abcLoaded : State := { loaded .sha256 abc [] with blk := abcBlock }

/-! ## Well-formedness: an ill-formed command for each check -/

theorem test_wf_setvar_t_beside_a_named_variant : Instr.wellFormed (.setvar .sha256 8) = false := by decide

/-- 95 S11, V8: 384 is not legal. -/
theorem test_wf_t_384 : Instr.wellFormed (.setvar .sha512t 384) = false := by decide

theorem test_wf_t_zero : Instr.wellFormed (.setvar .sha512t 0) = false := by decide

theorem test_wf_t_512 : Instr.wellFormed (.setvar .sha512t 512) = false := by decide

theorem test_wf_t_not_a_multiple_of_8 : Instr.wellFormed (.setvar .sha512t 7) = false := by decide

/-- The model refuses an ill-formed command as its word is refused: E_T, nothing else changed (60 R274, R281). -/
theorem test_exec_ill_formed_setvar :
    exec (.setvar .sha512t 384) State.reset = .next (errorEntry .eT State.reset) := by rfl

/-! ## Decoding, from words written out by 30 R90 and R92 -/

theorem test_decode_nop : decode 0b00000000000000000000000000000000#32 = .ok .nop := by decide

/-- `op = 0001`, `tag = 0010`, fourteen zeros, `t = 0`. -/
theorem test_decode_setvar_sha256 : decode 0b00010010000000000000000000000000#32 = .ok (.setvar .sha256 0) := by decide

/-- `op = 0001`, `tag = 0111`, fourteen zeros, `t = 0111111000 = 504` (95 V8). -/
theorem test_decode_setvar_sha512t : decode 0b00010111000000000000000111111000#32 = .ok (.setvar .sha512t 504) := by decide

theorem test_decode_init : decode 0b00100000000000000000000000000000#32 = .ok .init := by decide
theorem test_decode_padblk : decode 0b00110000000000000000000000000000#32 = .ok .padblk := by decide
theorem test_decode_expand : decode 0b01000000000000000000000000000000#32 = .ok .expand := by decide
theorem test_decode_compress : decode 0b01010000000000000000000000000000#32 = .ok .compress := by decide
theorem test_decode_block : decode 0b01100000000000000000000000000000#32 = .ok .block := by decide
theorem test_decode_output : decode 0b01110000000000000000000000000000#32 = .ok .output := by decide
theorem test_decode_hash : decode 0b10000000000000000000000000000000#32 = .ok .hash := by decide
theorem test_decode_hmac : decode 0b10010000000000000000000000000000#32 = .ok .hmac := by decide
theorem test_decode_clear : decode 0b10100000000000000000000000000000#32 = .ok .clear := by decide

/-- 30 R94: opcodes 0xB to 0xF. -/
theorem test_decode_reserved_opcode : decode 0xB0000000 = .error .eOpcode ∧ decode 0xFFFFFFFF = .error .eOpcode := by decide

/-- 30 R93, R95: a reserved bit; a reserved tag before a reserved bit; a reserved bit before an illegal `t`. -/
theorem test_decode_errors_in_order :
    decode 0x80000001 = .error .eRsvd ∧ decode 0x18000400 = .error .eVariant ∧ decode 0x17000407 = .error .eRsvd := by decide

theorem test_decode_table_word : decodeTableWord 32 0x90000000 = some .hmac ∧ decodeTableWord 32 0xC0000000 = none := by decide

/-! ## One step of each command, against 95 -/

/-- 45 R262: NOP is accepted: BUSY 1, DONE 0, STATUS reads 0x00000001. -/
theorem test_nop_accepted : statusWord (nextOf (exec .nop State.reset)).status = 0x00000001 := by decide +kernel

/-- 45 R260: NOP in flight completes: STATUS reads 0x00000002. -/
theorem test_nop_completes : statusWord (nextOf (exec .nop (inFlight .nop State.reset))).status = 0x00000002 := by decide +kernel

/-- 95 V7: SETVAR SHA-384. -/
theorem test_setvar_sha384 :
    let t := nextOf (exec (.setvar .sha384 0) (inFlight (.setvar .sha384 0) State.reset))
    variantWord t.variant = 0x83000000 ∧ dlenView t = 48 ∧ blkszView t = 128 ∧ t.h[7] = 0x47B5481DBEFA4FA4 := by decide +kernel

/-- 95 V7: SETVAR SHA-512/t with t = 504, the bootstrap's IV. -/
theorem test_setvar_sha512t :
    let t := nextOf (exec (.setvar .sha512t 504) (inFlight (.setvar .sha512t 504) State.reset))
    variantWord t.variant = 0x870001F8 ∧ t.ivr[0] = 0x4E657D16161B53AB ∧ t.ivr[7] = 0x067610A46181E912 := by decide +kernel

/-- 43 R226: INIT copies IVR. -/
theorem test_init : (nextOf (exec .init (inFlight .init { abcLoaded with h := zeros 8 64 }))).h[0] = 0x6A09E667 := by decide +kernel

/-- 43 R220: no variant, E_NOVAR (60 R275): STATUS reads ERR and code 5. -/
theorem test_init_without_variant : statusWord (nextOf (exec .init State.reset)).status = 0x00000504 := by decide +kernel

/-- 95 V3: the padded Block of "abc". -/
theorem test_padblk : (nextOf (exec .padblk (inFlight .padblk (loaded .sha256 abc [])))).blk = abcBlock := by decide +kernel

/-- 60 R277: BIDX = NBLK is out of range: E_BIDX. -/
theorem test_padblk_bidx : statusWord (nextOf (exec .padblk { loaded .sha256 abc [] with bidx := 1 })).status = 0x00000704 := by
  decide +kernel

/-- 95 V4: SHA-256, Block of "abc", the high half of BLK[0] ignored. -/
theorem test_expand :
    let s := { abcLoaded with blk := abcBlock.set 0 0xDEADBEEF61626380 }
    let w := (nextOf (exec .expand (inFlight .expand s))).w
    w[0] = 0x61626380 ∧ w[17] = 0x000F0000 ∧ w[63] = 0x12B1EDEB ∧ w[64] = 0 := by decide +kernel

/-- 95 V6: COMPRESS with W = 0 from the SHA-1 IV. -/
theorem test_compress :
    (nextOf (exec .compress (inFlight .compress (loaded .sha1 [] [])))).h =
      #v[0x92B404E5, 0x56588CED, 0x6C1ACD4E, 0xBF053F68, 0x09F73A93, 0, 0, 0] := by decide +kernel

/-- 95 V6: BLOCK on the Block of "abc", SHA-256. -/
theorem test_block :
    (nextOf (exec .block (inFlight .block abcLoaded))).h =
      #v[0xBA7816BF, 0x8F01CFEA, 0x414140DE, 0x5DAE2223, 0xB00361A3, 0x96177A9C, 0xB410FF61, 0xF20015AD] := by decide +kernel

/-- 95 S1, V6: OUTPUT of the SHA-1 State after "abc"; DOUT is zero from byte 20 on. -/
theorem test_output :
    let s := { loaded .sha1 [] [] with h := #v[0xA9993E36, 0x4706816A, 0xBA3E2571, 0x7850C26C, 0x9CD0D89D, 0, 0, 0] }
    let d := (nextOf (exec .output (inFlight .output s))).dout
    d.toList.take 21 = [0xA9, 0x99, 0x3E, 0x36, 0x47, 0x06, 0x81, 0x6A, 0xBA, 0x3E, 0x25, 0x71, 0x78, 0x50, 0xC2, 0x6C,
      0x9C, 0xD0, 0xD8, 0x9D, 0x00] := by decide +kernel

/-- 95 S1: HASH of "abc" under SHA-1, H back at the IV. -/
theorem test_hash :
    let t := nextOf (exec .hash (inFlight .hash (loaded .sha1 abc [])))
    t.dout.toList.take 20 = [0xA9, 0x99, 0x3E, 0x36, 0x47, 0x06, 0x81, 0x6A, 0xBA, 0x3E, 0x25, 0x71, 0x78, 0x50, 0xC2, 0x6C,
      0x9C, 0xD0, 0xD8, 0x9D] ∧ t.h[0] = 0x67452301 := by decide +kernel

/-- 60 R276: a message longer than MSG: E_LEN. -/
theorem test_hash_len : statusWord (nextOf (exec .hash { loaded .sha1 [] [] with msgLen := 65537 })).status = 0x00000604 := by
  decide +kernel

/-- The 43 bytes of 95 S4. -/
def foxMessage : List Byte :=
  [0x54, 0x68, 0x65, 0x20, 0x71, 0x75, 0x69, 0x63, 0x6b, 0x20, 0x62, 0x72, 0x6f, 0x77, 0x6e, 0x20, 0x66, 0x6f, 0x78, 0x20,
   0x6a, 0x75, 0x6d, 0x70, 0x73, 0x20, 0x6f, 0x76, 0x65, 0x72, 0x20, 0x74, 0x68, 0x65, 0x20, 0x6c, 0x61, 0x7a, 0x79, 0x20,
   0x64, 0x6f, 0x67]

/-- 95 S4: HMAC-SHA-256 under the key "key". -/
theorem test_hmac :
    (nextOf (exec .hmac (inFlight .hmac (loaded .sha256 foxMessage [0x6b, 0x65, 0x79])))).dout.toList.take 32 =
      [0xf7, 0xbc, 0x83, 0xf4, 0x30, 0x53, 0x84, 0x24, 0xb1, 0x32, 0x98, 0xe6, 0xaa, 0x6f, 0xb1, 0x43, 0xef, 0x4d, 0x59, 0xa1,
       0x49, 0x46, 0x17, 0x59, 0x97, 0x47, 0x9d, 0xbc, 0x2d, 0x1a, 0x3c, 0xd8] := by decide +kernel

/-- 45 R261: CLEAR scrubs BLK and leaves H at the IV. -/
theorem test_clear :
    let t := nextOf (exec .clear (inFlight .clear { abcLoaded with h := zeros 8 64 }))
    t.blk = zeros 16 64 ∧ t.h[7] = 0x5BE0CD19 := by decide +kernel

/-! ## The port, errors, placing a word -/

/-- 95 V10: a reserved opcode written to CMD: STATUS reads 0x00000104. -/
theorem test_reserved_opcode :
    statusWord (nextOf (perform (.wr32 0x004 0xB0000000) State.reset)).status = 0x00000104 := by decide +kernel

/-- 60 R279: a write to BLK while BUSY = 1 is dropped with E_BUSY. -/
theorem test_busy_write :
    let t := nextOf (perform (.wr32 0x180 1) (inFlight .hash abcLoaded))
    t.blk = abcBlock ∧ t.status.errcode = 0x08 := by decide +kernel

/-- 10 R32: ID. -/
theorem test_read_id : (nextOf (perform (.rd32 0x000) State.reset)).reply = .read 0x53484145 .ok := by decide +kernel

/-- 20 R67: past the end of the register block's BLK, W and the control registers; a byte access to a register. -/
theorem test_bus_errors :
    (nextOf (perform (.rd32 0x480) State.reset)).reply = .read 0 .busErr ∧
    (nextOf (perform (.rd32 0x034) State.reset)).reply = .read 0 .busErr ∧
    (nextOf (perform (.rd8 0x004) State.reset)).reply = .read 0 .busErr ∧
    (nextOf (perform (.wr32 0x1400 0) State.reset)).reply = .write .busErr := by decide +kernel

/-- 20 R64: a word write to the MSG window is four big-endian bytes. -/
theorem test_window_write :
    (nextOf (perform (.wr32 0x1000000 0x61626380) State.reset)).msg = [(0, 0x61), (1, 0x62), (2, 0x63), (3, 0x80)] := by
  decide +kernel

/-- 60 R282: CLRERR. -/
theorem test_clrerr :
    statusWord (acknowledge 0x00000004 { State.reset with status := { busy := false, done := true, err := true, errcode := 3 } }).status
      = 0x00000002 := by decide +kernel

/-- 20 R64 and its example: byte reads of the word 0x61626380 written at 0, and the word itself read back. -/
theorem test_window_read :
    let s := nextOf (perform (.wr32 0x1000000 0x61626380) State.reset)
    (nextOf (perform (.rd8 0x1000001) s)).reply = .read 0x62 .ok ∧
    (nextOf (perform (.rd32 0x1000000) s)).reply = .read 0x61626380 .ok := by decide +kernel

/-- 30 R100 with 95 S1: GETDIGEST gives the 20 bytes of DOUT, from five words. -/
theorem test_getdigest :
    let d : List Byte := [0xA9, 0x99, 0x3E, 0x36, 0x47, 0x06, 0x81, 0x6A, 0xBA, 0x3E, 0x25, 0x71, 0x78, 0x50, 0xC2, 0x6C,
      0x9C, 0xD0, 0xD8, 0x9D]
    (runAction .getDigest { loaded .sha1 [] [] with dout := doutOf d }).map (fun r => r.2) = some [.digest d] := by decide +kernel

/-- 30 R100: after a command that was refused, WAIT ends at its first poll, STATUS reading E_NOVAR. -/
theorem test_wait_after_refused_command :
    (runAction (.doCommand .hash [false, false]) State.reset).map (fun r => r.1.reply) = some (.read 0x00000504 .ok) := by
  decide +kernel

/-- A placed word is accepted by the very next step from reset. -/
theorem test_placed_word :
    let t := nextOf (step (State.reset.withFetchWord 32 0x12000000))
    t.cmd = 0x12000000 ∧ t.status.busy = true := by decide +kernel

/-- The reset memory has the canonical form. -/
theorem test_reset_memory : memWf State.reset.msg ∧ memWf State.reset.key := by decide

/-! ## Witnesses: the hypotheses of each statement can hold together. Each is named after its statement. -/

/-- A busy state without a variant, and one with. -/
abbrev busyReset : State := inFlight .nop State.reset

theorem test_witness_DecodeOfEncodeIsIdentity :
    Instr.wellFormed (.setvar .sha512t 504) = true ∧ Instr.wellFormed (.setvar .sha512t 8) = true ∧ Instr.wellFormed .hmac = true := by
  decide

theorem test_witness_EncodeOfDecodeIsIdentity : decode 0x170001F8 = .ok (.setvar .sha512t 504) := by decide

theorem test_witness_StepRunsTheDecodedCommand_write :
    let s := withEvents [.wr32 0x004 0x12000000] State.reset
    s.events = .wr32 0x004 0x12000000 :: [] ∧ s.status.busy = false ∧ decode 0x12000000 = .ok (.setvar .sha256 0) := by decide

theorem test_witness_StepRunsTheDecodedCommand_placed :
    (0xA0000000 : Nat) < 2 ^ 32 ∧ State.reset.status.busy = false ∧ decode (BitVec.ofNat 32 0xA0000000) = .ok .clear := by decide

theorem test_witness_StepRunsTheDecodedCommand_engine :
    let s := withEvents [.engine, .rd32 0x008] busyReset
    s.events = .engine :: [.rd32 0x008] ∧ s.status.busy = true ∧ decode s.cmd = .ok .nop := by decide

theorem test_witness_StepRunsTheDecodedCommand_default :
    busyReset.events = [] ∧ busyReset.status.busy = true ∧ decode busyReset.cmd = .ok .nop := by decide

/-- CmdWriteDecidesInOrder has no hypothesis; each of its branches is taken by some state and word. -/
theorem test_witness_CmdWriteDecidesInOrder :
    let code (s : State) (c : Word32) := (nextOf (perform (.wr32 0x004 c) s)).status.errcode
    let s := loaded .sha256 abc []
    code busyReset 0 = 8 ∧ code s 0xB0000000 = 1 ∧ code s 0x18000000 = 3 ∧ code s 0x10000001 = 2 ∧ code s 0x17000180 = 4 ∧
    code State.reset 0x80000000 = 5 ∧ code { s with msgLen := 65537 } 0x80000000 = 6 ∧
    code { s with keyLen := 1025 } 0x90000000 = 6 ∧ code { s with bidx := 1 } 0x30000000 = 7 ∧
    (nextOf (perform (.wr32 0x004 0x30000000) s)).status.busy = true := by decide +kernel

theorem test_witness_RotationsAreCircular : 0 < 1 ∧ 1 < 32 ∧ 31 < 32 ∧ 0 < 63 ∧ 63 < 64 := by decide

theorem test_witness_SigmaDeltaBits : (31 < 32 ∧ 0 < 32) ∧ (63 < 64 ∧ 0 < 64) := by decide

theorem test_witness_CodecIsBigEndian :
    ((32 = 32 ∨ 32 = 64) ∧ 1 < (bytesToWords 32 [1, 2, 3, 4, 5]).length) ∧
    ((64 = 32 ∨ 64 = 64) ∧ 0 < [(5 : BitVec 64)].length ∧ 7 < 64 / 8) := by decide

theorem test_witness_CodecRoundTrip : (32 = 32 ∨ 32 = 64) ∧ (64 = 32 ∨ 64 = 64) := by decide

theorem test_witness_PaddingAsBytes :
    (32 = 32 ∨ 32 = 64) ∧ ([] : List Byte).length < 2 ^ 61 ∧ (List.replicate 56 (0x61 : Byte)).length < 2 ^ 61 := by decide

theorem test_witness_BlockCountIsExact : (32 = 32 ∨ 32 = 64) ∧ (64 = 32 ∨ 64 = 64) := by decide

theorem test_witness_ExpandFollowsRecurrence :
    16 ≤ (tagAlgo .sha1).n ∧ 16 ≤ 79 ∧ 79 < (tagAlgo .sha1).n ∧ (tagAlgo .sha1).family = .sha1 ∧
    16 ≤ (tagAlgo .sha256).n ∧ 63 < (tagAlgo .sha256).n ∧ (tagAlgo .sha256).family = .sha2 := by decide

theorem test_witness_RomTables : 0 < 64 ∧ 63 < 64 := by decide

theorem test_witness_BootstrapIsOneBlock : tLegal 8 = true ∧ tLegal 504 = true := by decide

theorem test_witness_LabelIsDecimal : (0 < 1 ∧ 1 < 1000) ∧ (0 < 999 ∧ 999 < 1000) := by decide

/-- SHA-512/t with t = 504, and a variant that is not SHA-512/t. -/
theorem test_witness_DigestHasItsLength :
    let s := { State.reset with variant := { valid := true, tag := .sha512t, t := 504 } }
    (s.variant.tag = .sha512t → tLegal s.variant.t = true) ∧
    (abcLoaded.variant.tag = .sha512t → tLegal abcLoaded.variant.t = true) := by decide +kernel

theorem test_witness_HashChainsTheBlocks : 0 < nblk 32 0 ∧ 1 < nblk 32 56 := by decide

theorem test_witness_LongKeyCountsAsItsDigest :
    (abcLoaded.variant.tag = .sha512t → tLegal abcLoaded.variant.t = true) ∧
    tagB abcLoaded.variant.tag < (List.replicate 65 (0x61 : Byte)).length := by decide +kernel

theorem test_witness_OuterMessageIsTwoBlocks :
    (VariantTag.sha512t = .sha512t → tLegal 504 = true) ∧ (VariantTag.sha1 = .sha512t → tLegal 0 = true) := by decide

/-- One acceptable state for every command; NOP, SETVAR and CLEAR also from reset. -/
theorem test_witness_AcceptedCommandCompletes :
    let s := loaded .sha256 abc abc
    let all : List Instr := [.nop, .setvar .sha1 0, .init, .padblk, .expand, .compress, .block, .output, .hash, .hmac, .clear]
    s.status.busy = false ∧ s.status.err = false ∧ s.variant.valid = true ∧
    (∀ i ∈ all, i.wellFormed = true) ∧ s.msgLen.toNat ≤ s.params.msgCap ∧ s.keyLen.toNat ≤ s.params.keyCap ∧
    s.bidx.toNat < nblkView s := by decide +kernel

theorem test_witness_Acceptable : Acceptable .hmac (loaded .sha256 abc abc) ∧ Acceptable .padblk (loaded .sha256 abc abc) ∧
    Acceptable (.setvar .sha512t 8) State.reset := by
  refine ⟨⟨?_, ?_, ?_, ?_, ?_⟩, ⟨?_, ?_, ?_, ?_, ?_⟩, ⟨?_, ?_, ?_, ?_, ?_⟩⟩ <;> decide +kernel

theorem test_witness_NopInitClearComplete : busyReset.status.busy = true := by decide
theorem test_witness_SetvarCompletes : (inFlight (.setvar .sha1 0) State.reset).status.busy = true := by decide

/-- The last Block of a two-Block message. -/
theorem test_witness_PadblkCompletes :
    let s := { inFlight .padblk (loaded .sha1 foxMessage []) with msgLen := 56, bidx := 1 }
    s.status.busy = true ∧ s.variant.valid = true ∧ s.bidx.toNat < nblkView s := by decide +kernel

theorem test_witness_ExpandCompletes :
    (inFlight .expand abcLoaded).status.busy = true ∧ 16 ≤ 63 ∧ 63 < tagN abcLoaded.variant.tag := by decide +kernel

theorem test_witness_CompressCompletes :
    (inFlight .compress abcLoaded).status.busy = true ∧ 63 < tagN abcLoaded.variant.tag ∧ tagFamily abcLoaded.variant.tag = .sha2 ∧
    79 < tagN .sha1 ∧ tagFamily .sha1 = .sha1 := by decide +kernel

theorem test_witness_BlockCompletes : (inFlight .block abcLoaded).status.busy = true := by decide +kernel

theorem test_witness_OutputCompletes :
    let s := inFlight .output abcLoaded
    s.status.busy = true ∧ s.variant.valid = true ∧ (s.variant.tag = .sha512t → tLegal s.variant.t = true) ∧ dlenView s = 32 := by
  decide +kernel

theorem test_witness_HashCompletes :
    (inFlight .hash abcLoaded).status.busy = true ∧ (inFlight .hash abcLoaded).variant.valid = true := by decide +kernel

theorem test_witness_HmacCompletes :
    let s := inFlight .hmac (loaded .sha256 abc (List.replicate 65 0x61))
    s.status.busy = true ∧ s.variant.valid = true ∧ blkszView s < s.keyLen.toNat := by decide +kernel

/-- Both phases of a command, and a command other than SETVAR. -/
theorem test_witness_CommandFrame :
    (∃ t, exec .hash (inFlight .hash abcLoaded) = .next t) ∧ (∃ t, exec .hash abcLoaded = .next t) ∧
    (∀ tag x, Instr.hash ≠ .setvar tag x) ∧ (inFlight .hash abcLoaded).status.busy = true ∧ abcLoaded.status.busy = false := by
  refine ⟨⟨_, rfl⟩, ⟨_, rfl⟩, fun _ _ h => Instr.noConfusion h, ?_, ?_⟩ <;> decide +kernel

theorem test_witness_HighHalvesOfBlkIgnored :
    let s := inFlight .block abcLoaded
    let s' := { s with blk := abcBlock.set 0 0xDEADBEEF61626380 }
    s.status.busy = true ∧ tagW s.variant.tag = 32 ∧ s' = { s with blk := s'.blk } ∧ s'.blk ≠ s.blk ∧
    (∀ i : Fin 16, s'.blk[i].extractLsb' 0 32 = s.blk[i].extractLsb' 0 32) := by decide +kernel

theorem test_witness_LowLevelLoopGivesTheDigest : abcLoaded.variant.valid = true := by decide +kernel

theorem test_witness_BusyWritesAreDropped :
    busyReset.status.busy = true ∧ Target.blkHalf 0 false ≠ .ctrl .status ∧ Target.blkHalf 0 false ≠ .ctrl .ien ∧
    target4 busyReset.params 0x180 = some (.blkHalf 0 false) ∧ target1 busyReset.params 0x1000 = some (.window .key 0) := by
  decide +kernel

theorem test_witness_BusyReadsAreMasked :
    busyReset.status.busy = true ∧ target4 busyReset.params 0x47C = some (.wHalf 79 true) ∧
    target4 busyReset.params 0x030 = some (.ctrl .keyCapR) ∧
    target1 busyReset.params 0x100FFFF = some (.window .msg 65535) := by decide +kernel

/-- The smallest and the largest legal capacities, and addresses on both sides of each window's end. -/
theorem test_witness_OnlyMappedAddressesAnswer :
    State.reset.params.legal ∧ ({ msgCap := 4, keyCap := 132 } : Config.Params).legal ∧
    ({ msgCap := 2 ^ 24, keyCap := 4096 } : Config.Params).legal ∧
    target4 State.reset.params 0x13FC = some (.window .key 1020) ∧ target4 State.reset.params 0x1400 = none ∧
    target4 State.reset.params 0x030 = some (.ctrl .keyCapR) ∧ target4 State.reset.params 0x034 = none ∧
    target4 State.reset.params 0x0FC = none ∧ target4 State.reset.params 0x100 = some (.hHalf 0 false) ∧
    target1 State.reset.params 0x13FF = some (.window .key 1023) ∧ target1 State.reset.params 0x1400 = none ∧
    target1 State.reset.params 0x0FFF = none := by decide +kernel

/-- Both windows at their last word, and the last byte of each. -/
theorem test_witness_DataRegistersRead :
    abcLoaded.status.busy = false ∧ abcLoaded.params.legal ∧
    (65532 < capOf abcLoaded .msg ∧ 65532 % 4 = 0 ∧ 65535 < capOf abcLoaded .msg) ∧
    (1020 < capOf abcLoaded .key ∧ 1020 % 4 = 0 ∧ 1023 < capOf abcLoaded .key) := by decide +kernel

theorem test_witness_WindowWriteIsBigEndian :
    State.reset.params.legal ∧ State.reset.status.busy = false ∧
    (65532 % 4 = 0 ∧ 65532 < capOf State.reset .msg) ∧ (1020 % 4 = 0 ∧ 1020 < capOf State.reset .key) ∧
    65535 < capOf State.reset .msg ∧ 1023 < capOf State.reset .key := by decide +kernel

theorem test_witness_BlkHalfWrite : abcLoaded.status.busy = false := by decide +kernel

theorem test_witness_RegisterWrites :
    State.reset.status.busy = false ∧ (0x47C : HostAddr).toNat % 4 = 0 ∧
    (0x200 ≤ (0x47C : HostAddr).toNat ∧ (0x47C : HostAddr).toNat < 0x480) ∧
    (0x020 ≤ (0x030 : HostAddr).toNat ∧ (0x030 : HostAddr).toNat ≤ 0x030) ∧
    (0x100 ≤ (0x17C : HostAddr).toNat ∧ (0x17C : HostAddr).toNat < 0x180) := by decide +kernel

theorem test_witness_ReadsHaveNoSideEffect :
    (withEvents [.rd32 0x180] abcLoaded).events = .rd32 0x180 :: [] ∧
    (withEvents [.rd8 0x1000] abcLoaded).events = .rd8 0x1000 :: [] := by decide +kernel

theorem test_witness_MemoryGood : MemoryGood (loaded .sha256 abc abc) ∧ (loaded .sha256 abc abc).params.legal := by
  refine ⟨⟨?_, ?_, ?_, ?_⟩, ?_⟩ <;> decide +kernel

theorem test_witness_StepKeepsMemoriesCanonical :
    ∃ t, step (withEvents [.wr8 0x1000001 0x7A] (loaded .sha256 abc abc)) = .next t := ⟨_, rfl⟩

/-- The invariants hold of an idle state with a variant, whose Blocks so far are none. -/
theorem test_witness_Inv_idle : Inv (loaded .sha256 abc abc) := by
  refine ⟨?_, ?_, ?_, ?_, ?_, ?_, ?_, ?_, ?_, ?_, ?_, ?_⟩
  · intro h; exact absurd h (by decide +kernel)
  · intro _ _; exact ⟨by unfold HighZero; decide +kernel, by unfold HighZero; decide +kernel, by unfold HighZero; decide +kernel,
      by unfold HighZero; decide +kernel⟩
  · intro _ h; exact absurd h (by decide +kernel)
  · intro _ _; unfold ZeroFrom; decide +kernel
  · intro _; unfold ZeroFrom; decide +kernel
  · exact ⟨by decide +kernel, by decide +kernel, fun _ => by decide +kernel⟩
  · exact fun _ => ⟨⟨[], by decide +kernel⟩, ⟨zeros 16 64, by decide +kernel⟩⟩
  · exact fun _ => ⟨by decide +kernel, by decide +kernel, by decide +kernel⟩
  · exact ⟨⟨.nop, by decide +kernel⟩, fun h => absurd h (by decide +kernel)⟩
  · exact ⟨by decide +kernel, by decide +kernel⟩
  · exact test_witness_MemoryGood.1
  · decide +kernel

/-- The invariants hold of a state with NOP in flight. -/
theorem test_witness_Inv_busy : Inv busyReset ∧ busyReset.status.busy = true := by
  refine ⟨⟨?_, ?_, ?_, ?_, ?_, ?_, ?_, ?_, ?_, ?_, ?_, ?_⟩, by decide⟩
  · intro _; decide +kernel
  · intro h; exact absurd h (by decide)
  · intro h; exact absurd h (by decide)
  · intro h; exact absurd h (by decide)
  · intro h; exact absurd h (by decide)
  · exact ⟨by decide +kernel, by decide +kernel, fun h => absurd h (by decide)⟩
  · intro h; exact absurd h (by decide)
  · intro h; exact absurd h (by decide)
  · exact ⟨⟨.nop, by decide⟩, fun _ => ⟨by decide, .nop, by decide, by decide, fun h => absurd h (by decide),
      fun h => absurd h (by decide), fun h => absurd h (by decide), fun h => absurd h (by decide)⟩⟩
  · exact ⟨by decide, by decide⟩
  · exact ⟨by decide, by decide, by decide, by decide⟩
  · decide

theorem test_witness_StepKeepsTheInvariants :
    ∃ t, step (withEvents [.wr32 0x004 0x90000000] (loaded .sha256 abc abc)) = .next t := ⟨_, rfl⟩

theorem test_witness_OnlySetvarWritesVariant :
    let s := inFlight (.setvar .sha256 0) State.reset
    ∃ t, step s = .next t ∧ (t.variant ≠ s.variant ∨ t.ivr ≠ s.ivr) := ⟨_, rfl, by decide +kernel⟩

theorem test_witness_WaitPollsUntilIdle :
    abcLoaded.status.busy = false ∧ busyReset.status.busy = true ∧ true ∉ [false, false] ∧ decode busyReset.cmd = .ok .nop ∧
    true ∈ [false, true, false] := by decide +kernel

theorem test_witness_InputsConstantWhileBusy :
    ∃ t, busyReset.status.busy = true ∧ Event.wr32 0x180 1 ≠ .reset ∧ Event.wr32 0x180 1 ≠ .powerUp ∧ Event.wr32 0x180 1 ≠ .engine ∧
      perform (.wr32 0x180 1) busyReset = .next t := ⟨_, by decide, by decide, by decide, by decide, rfl⟩

theorem test_witness_ResultIndependentOfLatency :
    let s := inFlight .hash abcLoaded
    let es : List Event := [.rd32 0x008, .wr32 0x004 0x20000000, .wr32 0x008 0x4]
    s.status.busy = true ∧ decode s.cmd = .ok .hash ∧ (∀ e ∈ es, e ≠ .reset ∧ e ≠ .powerUp ∧ e ≠ .engine) ∧
    ∃ u, exec .hash s = .next u := ⟨by decide +kernel, by decide +kernel, by decide +kernel, _, rfl⟩

/-- Under SHA-256, and under SHA-512/t with t = 504. -/
theorem test_witness_LoadedMessageIsHashed :
    let s := loaded .sha256 [] []
    let s' := { s with variant := { valid := true, tag := .sha512t, t := 504 } }
    s.params.legal ∧ s.status.busy = false ∧ s.status.err = false ∧ s.variant.valid = true ∧
    (s.variant.tag = .sha512t → tLegal s.variant.t = true) ∧ abc.length ≤ s.params.msgCap ∧ true ∈ [false, true] ∧
    s'.variant.valid = true ∧ (s'.variant.tag = .sha512t → tLegal s'.variant.t = true) := by decide +kernel

theorem test_witness_LoadedKeyAndMessageAreMaced :
    let s := loaded .sha256 [] []
    s.params.legal ∧ s.status.busy = false ∧ s.status.err = false ∧ s.variant.valid = true ∧
    (s.variant.tag = .sha512t → tLegal s.variant.t = true) ∧ abc.length ≤ s.params.msgCap ∧
    (List.replicate 1024 (0x61 : Byte)).length ≤ s.params.keyCap ∧ true ∈ [true] := by decide +kernel

theorem test_witness_MicroOpsRefineBlockCommands :
    ∃ a t, abcLoaded.status.busy = false ∧ exec .block abcLoaded = .next a ∧ a.status.busy = true ∧ exec .block a = .next t :=
  ⟨_, _, by decide +kernel, rfl, by decide +kernel, rfl⟩

theorem test_witness_MicroOpsRefineHash :
    ∃ a t, abcLoaded.status.busy = false ∧ exec .hash abcLoaded = .next a ∧ a.status.busy = true ∧ exec .hash a = .next t :=
  ⟨_, _, by decide +kernel, rfl, by decide +kernel, rfl⟩

theorem test_witness_MicroOpsRefineHmac :
    ∃ a t, abcLoaded.status.busy = false ∧ exec .hmac abcLoaded = .next a ∧ a.status.busy = true ∧ exec .hmac a = .next t :=
  ⟨_, _, by decide +kernel, rfl, by decide +kernel, rfl⟩

theorem test_witness_MicroOpsRefineBootstrap :
    ∃ a t, State.reset.status.busy = false ∧ exec (.setvar .sha512t 8) State.reset = .next a ∧ a.status.busy = true ∧
      exec (.setvar .sha512t 8) a = .next t := ⟨_, _, by decide +kernel, rfl, by decide +kernel, rfl⟩

end Sys2Proof.Tests
end

section
/-! The scope statements (spec/00_scope.md): an acceptable command is accepted and completes, nothing is stuck, and what a command
leaves does not depend on the host transactions before its completion. -/

namespace Sys2Proof.Proofs

open Sys2Proof.Machine Sys2Proof.Safety

/-! ## The acceptance checks -/

theorem firstError_eq_none {cs : List (Option ErrCode)} (h : ∀ c ∈ cs, c = none) : firstError cs = none := by
  induction cs with
  | nil => rfl
  | cons c cs ih =>
    obtain ⟨rfl, hcs⟩ := List.forall_mem_cons.mp h
    exact ih hcs

theorem checkRsvd_of_wellFormed {tag : VariantTag} {t : BitVec 10} (h : (Instr.setvar tag t).wellFormed = true) :
    checkRsvd tag t = none := by
  cases tag <;> simp_all [checkRsvd, Instr.wellFormed]

theorem checkT_of_wellFormed {tag : VariantTag} {t : BitVec 10} (h : (Instr.setvar tag t).wellFormed = true) :
    checkT tag t = none := by
  cases tag <;> simp_all [checkT, Instr.wellFormed]

theorem checkVariant_of_valid {s : State} (h : s.variant.valid = true) : checkVariant s = none := by
  simp [checkVariant, h]

theorem checkMsgLen_of_le {s : State} (h : s.msgLen.toNat ≤ s.params.msgCap) : checkMsgLen s = none := by
  simp [checkMsgLen, h]

theorem checkKeyLen_of_le {s : State} (h : s.keyLen.toNat ≤ s.params.keyCap) : checkKeyLen s = none := by
  simp [checkKeyLen, h]

theorem checkBidx_of_lt {s : State} (h : s.bidx.toNat < nblkView s) : checkBidx s = none := by
  simp [checkBidx, h]

/-- An acceptable command passes each of its checks (30 R95 steps 5 to 10). -/
theorem checksOf_of_acceptable {i : Instr} {s : State} (h : Acceptable i s) : ∀ c ∈ checksOf i s, c = none := by
  obtain ⟨hwf, hvar, hmsg, hkey, hbidx⟩ := h
  have hv : needsVariant i = true → checkVariant s = none := fun hn => checkVariant_of_valid (hvar hn)
  have hm : i = .padblk ∨ i = .hash ∨ i = .hmac → checkMsgLen s = none := fun hi => checkMsgLen_of_le (hmsg hi)
  cases i with
  | nop => simp [checksOf]
  | setvar tag t => simp [checksOf, checkRsvd_of_wellFormed hwf, checkT_of_wellFormed hwf]
  | init => simp [checksOf, hv rfl]
  | padblk => simp [checksOf, hv rfl, hm (by simp), checkBidx_of_lt (hbidx rfl)]
  | expand => simp [checksOf, hv rfl]
  | compress => simp [checksOf, hv rfl]
  | block => simp [checksOf, hv rfl]
  | output => simp [checksOf, hv rfl]
  | hash => simp [checksOf, hv rfl, hm (by simp)]
  | hmac => simp [checksOf, hv rfl, hm (by simp), checkKeyLen_of_le (hkey rfl)]
  | clear => simp [checksOf]

theorem exec_of_acceptable {i : Instr} {s : State} (hb : s.status.busy = false) (he : s.status.err = false)
    (h : Acceptable i s) : exec i s = .next (accept (encode i) (startStage i) s) := by
  rw [exec_eq_command]
  exact command_accept hb he (firstError_eq_none (checksOf_of_acceptable h))

theorem effectOf_cmd (i : Instr) (s : State) : (effectOf i s).cmd = s.cmd := by
  obtain ⟨-, -, -, -, -, -, hcmd, -⟩ := effectOf_frame i s
  exact hcmd

theorem effectOf_status (i : Instr) (s : State) : (effectOf i s).status = s.status := by
  obtain ⟨-, -, -, -, -, -, -, hstatus, -⟩ := effectOf_frame i s
  exact hstatus

/-- Settles O21: the accepted state is `accept`, and the completed one is `finish` of the command's effect on it. -/
theorem acceptedCommandCompletes : Obligations.AcceptedCommandCompletes := by
  intro i s hb he hacc
  let a := accept (encode i) (startStage i) s
  refine ⟨a, finish (effectOf i a), exec_of_acceptable hb he hacc, rfl, exec_inFlight i rfl, ?_, ?_, rfl⟩
  · simp [a, effectOf_status]
  · simp [a, effectOf_cmd]

/-! ## Progress -/

theorem hostWrite_next (s : State) (o : Option Target) (d : Word32) (bs : List Byte) :
    ∃ u, hostWrite s o d bs = .next u := by
  rcases hostWrite_cases s o d bs with ⟨_, h⟩ | ⟨t, _, h⟩
  · exact ⟨_, h⟩
  · obtain ⟨u, hu⟩ := writeTarget_next s t d bs
    exact ⟨withReply (.write .ok) u, by rw [h, hu, mapNext_next]⟩

theorem hostRead_next (s : State) (o : Option Target) (f : State → Target → Word32) :
    ∃ u, hostRead s o f = .next u := by
  obtain ⟨r, h⟩ := hostRead_eq s o f
  exact ⟨_, h⟩

/-- The turn of the engine faults only where CMD holds no command word. -/
theorem engineTurn_next {s : State} {i : Instr} (hd : decode s.cmd = .ok i) : ∃ u, engineTurn s = .next u := by
  cases hb : s.status.busy with
  | false => exact ⟨s, engineTurn_idle hb⟩
  | true => exact ⟨_, engineTurn_inFlight hb hd⟩

theorem perform_next {s : State} {i : Instr} (e : Event) (hd : decode s.cmd = .ok i) : ∃ u, perform e s = .next u := by
  cases e with
  | wr32 a d => exact hostWrite_next ..
  | wr8 a b => exact hostWrite_next ..
  | rd32 a => exact hostRead_next ..
  | rd8 a => exact hostRead_next ..
  | reset => exact ⟨_, rfl⟩
  | powerUp => exact ⟨_, rfl⟩
  | engine => exact engineTurn_next hd

theorem step_next {s : State} {i : Instr} (hd : decode s.cmd = .ok i) : ∃ u, step s = .next u := by
  cases hev : s.events with
  | nil => rw [step_nil hev]; exact engineTurn_next hd
  | cons e es => rw [step_cons hev]; exact perform_next e hd

/-- Settles O50: of the invariants only R33's is needed, that CMD holds a command word. -/
theorem nothingIsStuck : Obligations.NothingIsStuck := by
  intro s hinv
  obtain ⟨-, -, -, -, -, -, -, -, ⟨⟨i, hd⟩, -⟩, -⟩ := hinv
  exact ⟨step_next hd, fun hb => ⟨_, engineTurn_inFlight hb hd, rfl, rfl⟩⟩

/-! ## Host transactions while a command is in flight -/

/-- `t` differs from `s` at most in DONE, ERR, ERRCODE, IEN and the port's answer (20 R71, R74). -/
def OnlyPortChanges (s t : State) : Prop :=
  t = { s with status := t.status, ien := t.ien, reply := t.reply } ∧ t.status.busy = s.status.busy

theorem OnlyPortChanges.refl (s : State) : OnlyPortChanges s s := ⟨rfl, rfl⟩

theorem OnlyPortChanges.trans {s t u : State} (hst : OnlyPortChanges s t) (htu : OnlyPortChanges t u) :
    OnlyPortChanges s u := by
  obtain ⟨ht, hbt⟩ := hst
  obtain ⟨hu, hbu⟩ := htu
  refine ⟨?_, hbu.trans hbt⟩
  rw [ht] at hu
  exact hu

theorem OnlyPortChanges.cmd_eq {s t : State} (h : OnlyPortChanges s t) : t.cmd = s.cmd := by
  rw [h.1]

theorem onlyPortChanges_withReply (r : Reply) (s : State) : OnlyPortChanges s (withReply r s) := ⟨rfl, rfl⟩

theorem onlyPortChanges_acknowledge (d : Word32) (s : State) : OnlyPortChanges s (acknowledge d s) := ⟨rfl, rfl⟩

theorem onlyPortChanges_ien (ie : IntEnable) (s : State) : OnlyPortChanges s { s with ien := ie } := ⟨rfl, rfl⟩

theorem onlyPortChanges_errorEntry (e : ErrCode) (s : State) : OnlyPortChanges s (errorEntry e s) := by
  unfold errorEntry
  split
  · exact .refl s
  · exact ⟨rfl, rfl⟩

/-- While BUSY = 1 a write acts on STATUS and IEN, and is dropped with E_BUSY anywhere else (20 R71). -/
theorem writeTarget_inFlight {s : State} (tgt : Target) (d : Word32) (bs : List Byte) (hb : s.status.busy = true) :
    ∃ t, writeTarget s tgt d bs = .next t ∧ OnlyPortChanges s t := by
  rcases writeTarget_cases s tgt d bs with ⟨_, h⟩ | ⟨_, h⟩ | ⟨_, _, _, h⟩ | ⟨_, _, hidle, _⟩
  · exact ⟨_, h, onlyPortChanges_acknowledge d s⟩
  · exact ⟨_, h, onlyPortChanges_ien _ s⟩
  · exact ⟨_, h, onlyPortChanges_errorEntry .eBusy s⟩
  · rw [hb] at hidle
    contradiction

theorem hostWrite_inFlight {s : State} (o : Option Target) (d : Word32) (bs : List Byte) (hb : s.status.busy = true) :
    ∃ t, hostWrite s o d bs = .next t ∧ OnlyPortChanges s t := by
  rcases hostWrite_cases s o d bs with ⟨_, h⟩ | ⟨tgt, _, h⟩
  · exact ⟨_, h, onlyPortChanges_withReply _ s⟩
  · obtain ⟨u, hu, hsu⟩ := writeTarget_inFlight tgt d bs hb
    exact ⟨_, by rw [h, hu, mapNext_next], hsu.trans (onlyPortChanges_withReply _ u)⟩

theorem hostRead_onlyPortChanges (s : State) (o : Option Target) (f : State → Target → Word32) :
    ∃ t, hostRead s o f = .next t ∧ OnlyPortChanges s t := by
  obtain ⟨r, h⟩ := hostRead_eq s o f
  exact ⟨_, h, onlyPortChanges_withReply r s⟩

/-- The host transactions among the events (30 R99). -/
def IsTransaction (e : Event) : Prop := e ≠ .reset ∧ e ≠ .powerUp ∧ e ≠ .engine

/-- A host transaction leaves the command in flight and its inputs as they are (20 R71, R74). -/
theorem perform_inFlight {s : State} {e : Event} (he : IsTransaction e) (hb : s.status.busy = true) :
    ∃ t, perform e s = .next t ∧ OnlyPortChanges s t := by
  obtain ⟨hreset, hpower, hengine⟩ := he
  cases e with
  | wr32 a d => exact hostWrite_inFlight _ _ _ hb
  | wr8 a b => exact hostWrite_inFlight _ _ _ hb
  | rd32 a => exact hostRead_onlyPortChanges ..
  | rd8 a => exact hostRead_onlyPortChanges ..
  | reset => contradiction
  | powerUp => contradiction
  | engine => contradiction

/-! ## Runs of events -/

theorem withEvents_of_events {s : State} {es : List Event} (h : s.events = es) : withEvents es s = s := by
  subst h
  rfl

theorem runEvents_cons {s t : State} {e : Event} {es : List Event} (h : perform e (withEvents es s) = .next t)
    (hes : t.events = es) : runEvents (e :: es) s = runEvents es t := by
  have hstep : Sys2Proof.core.step (withEvents (e :: es) s) = .next t :=
    (step_cons (s := withEvents (e :: es) s) rfl).trans h
  subst hes
  simp only [runEvents, List.length_cons, Host.Core.run, hstep]
  rfl

theorem runEvents_engine {s t : State} (h : engineTurn (withEvents [] s) = .next t) (hes : t.events = []) :
    runEvents [.engine] s = .next t := by
  rw [runEvents_cons (e := .engine) h hes]
  exact congrArg Host.Outcome.next (withEvents_of_events hes)

/-- Host transactions before `fs` change nothing of a command in flight that the run of `fs` starts from. -/
theorem runEvents_transactions {s : State} (es fs : List Event) (hes : ∀ e ∈ es, IsTransaction e)
    (hb : s.status.busy = true) : ∃ t, OnlyPortChanges s t ∧ runEvents (es ++ fs) s = runEvents fs t := by
  induction es generalizing s with
  | nil => exact ⟨s, .refl s, rfl⟩
  | cons e es ih =>
    obtain ⟨he, hes⟩ := List.forall_mem_cons.mp hes
    obtain ⟨u, hu, hframe, hbusy⟩ := perform_inFlight (s := withEvents (es ++ fs) s) he hb
    have hev : u.events = es ++ fs := by rw [hframe]; rfl
    have hsu : OnlyPortChanges s (withEvents s.events u) := ⟨by rw [hframe]; rfl, hbusy⟩
    obtain ⟨t, hut, hrun⟩ := ih (s := withEvents s.events u) hes (hbusy.trans hb)
    exact ⟨t, hsu.trans hut, (runEvents_cons hu hev).trans hrun⟩

/-- The completion reads nothing that the port has changed, and keeps what the port has left. -/
theorem finish_effectOf_onlyPortChanges {s t : State} (i : Instr) (h : OnlyPortChanges s t) :
    finish (effectOf i (withEvents [] t)) =
      { finish (effectOf i s) with
        status := { t.status with busy := false, done := true }, ien := t.ien, reply := t.reply, events := [] } := by
  have ht : withEvents [] t = { s with status := t.status, ien := t.ien, reply := t.reply, events := [] } := by
    rw [h.1]; rfl
  rw [ht, effectOf_congr]
  rfl

/-- Settles O53: the effect of the command reads nothing that the transactions change. -/
theorem resultIndependentOfLatency : Obligations.ResultIndependentOfLatency := by
  intro s u i es hb hd hes hexec
  obtain ⟨t, hst, hrun⟩ := runEvents_transactions es [.engine] hes hb
  have hbusy : t.status.busy = true := hst.2.trans hb
  have hcmd : decode t.cmd = .ok i := by rw [hst.cmd_eq, hd]
  have hturn := engineTurn_inFlight (s := withEvents [] t) hbusy hcmd
  rw [finish_effectOf_onlyPortChanges i hst] at hturn
  rw [exec_inFlight i hb] at hexec
  cases hexec
  exact ⟨_, hrun.trans (runEvents_engine hturn rfl), rfl, rfl, rfl⟩

end Sys2Proof.Proofs
end

section
/-! What one step can do to a state (spec/00_scope.md R8, R9), said once, and the rules that follow from it: the memories keep their
canonical form, and VARIANT and IVR change only by SETVAR, reset and power-up. -/

namespace Sys2Proof.Proofs

open Sys2Proof.Machine Sys2Proof.Safety

/-! ## The acceptance checks, read backwards -/

theorem firstError_eq_none_iff {cs : List (Option ErrCode)} : firstError cs = none ↔ ∀ c ∈ cs, c = none := by
  refine ⟨fun h => ?_, firstError_eq_none⟩
  induction cs with
  | nil => simp
  | cons c cs ih =>
    cases c with
    | none => exact List.forall_mem_cons.mpr ⟨rfl, ih h⟩
    | some e => cases h

theorem wellFormed_setvar_iff (tag : VariantTag) (t : BitVec 10) :
    (Instr.setvar tag t).wellFormed = true ↔ checkRsvd tag t = none ∧ checkT tag t = none := by
  cases tag <;> simp [checkRsvd, checkT, Instr.wellFormed]

/-- A command whose checks all pass is acceptable: the converse of `checksOf_of_acceptable`. -/
theorem acceptable_of_checksOf {i : Instr} {s : State} (h : ∀ c ∈ checksOf i s, c = none) : Acceptable i s := by
  have hv : checkVariant s = none → s.variant.valid = true := by simp [checkVariant]
  have hm : checkMsgLen s = none → s.msgLen.toNat ≤ s.params.msgCap := by simp [checkMsgLen]
  have hk : checkKeyLen s = none → s.keyLen.toNat ≤ s.params.keyCap := by simp [checkKeyLen]
  have hb : checkBidx s = none → s.bidx.toNat < nblkView s := by simp [checkBidx]
  cases i with
  | setvar tag t =>
    have hwf : (Instr.setvar tag t).wellFormed = true := by
      rw [wellFormed_setvar_iff]
      simpa [checksOf] using h
    simp [Acceptable, hwf, needsVariant]
  | _ => simp_all [checksOf, Acceptable, needsVariant, Instr.wellFormed]

/-- The issue of a command to an idle engine: ignored, an error taken, or accepted because it is acceptable (30 R95). -/
theorem exec_idle_cases {i : Instr} {s u : State} (hb : s.status.busy = false) (h : exec i s = .next u) :
    u = s ∨ (∃ e, u = errorEntry e s) ∨ (Acceptable i s ∧ u = accept (encode i) (startStage i) s) := by
  rw [exec_eq_command] at h
  rcases command_cases (encode i) (startStage i) (checksOf i s) (effectOf i) s with
    ⟨hbusy, _⟩ | ⟨_, _, h'⟩ | ⟨_, _, e, _, h'⟩ | ⟨_, _, hc, h'⟩
  · simp [hb] at hbusy
  all_goals
    rw [h'] at h
    cases h
  · exact .inl rfl
  · exact .inr (.inl ⟨e, rfl⟩)
  · exact .inr (.inr ⟨acceptable_of_checksOf (firstError_eq_none_iff.mp hc), rfl⟩)

/-- An idle engine that has accepted a command holds the accepted state, and the command was acceptable. -/
theorem exec_accepted {i : Instr} {s a : State} (hb : s.status.busy = false) (h : exec i s = .next a)
    (ha : a.status.busy = true) : Acceptable i s ∧ a = accept (encode i) (startStage i) s := by
  rcases exec_idle_cases hb h with rfl | ⟨e, rfl⟩ | hacc
  · simp [hb] at ha
  · simp [hb] at ha
  · exact hacc

/-! ## Where a window access ends -/

theorem windowAt_bound {s : State} {a size x : Nat} {sp : Space}
    (h : windowAt s.params a size = some (.window sp x)) : x + size ≤ capOf s sp := by
  unfold windowAt at h
  split at h
  · cases h
    simp only [capOf]
    omega
  · split at h
    · cases h
      simp only [capOf]
      omega
    · cases h

theorem registerAt_ne_window (a : Nat) (sp : Space) (x : Nat) : registerAt a ≠ some (.window sp x) := by
  unfold registerAt
  split
  · cases ctrlAt a <;> simp
  · split_ifs <;> simp

/-- A 4-byte window access ends inside the window (20 R67). -/
theorem target4_window_bound {s : State} {a : HostAddr} {sp : Space} {x : Nat}
    (h : target4 s.params a = some (.window sp x)) : x + 4 ≤ capOf s sp := by
  unfold target4 at h
  split_ifs at h
  · exact absurd h (registerAt_ne_window _ _ _)
  · exact windowAt_bound h

/-- A 1-byte window access is inside the window (20 R67). -/
theorem target1_window_bound {s : State} {a : HostAddr} {sp : Space} {x : Nat}
    (h : target1 s.params a = some (.window sp x)) : x + 1 ≤ capOf s sp := by
  unfold target1 at h
  split_ifs at h
  exact windowAt_bound h

/-! ## The result of one event -/

/-- What event `e` can leave of a state, but for the port's answer. -/
inductive EventResult (s : State) : Event → State → Prop
  | unchanged (e : Event) : EventResult s e s
  | acknowledged (e : Event) (d : Word32) : EventResult s e (acknowledge d s)
  | enabled (e : Event) (ie : IntEnable) : EventResult s e { s with ien := ie }
  | errorTaken (e : Event) (c : ErrCode) : EventResult s e (errorEntry c s)
  | accepted (e : Event) (i : Instr) (hb : s.status.busy = false) (hacc : Acceptable i s) :
      EventResult s e (accept (encode i) (startStage i) s)
  | registers (e : Event) (m k b : Word32) (blk : Vector Reg64 16) (hb : s.status.busy = false) :
      EventResult s e { s with msgLen := m, keyLen := k, bidx := b, blk := blk }
  | stored (e : Event) (sp : Space) (a : Nat) (bs : List Byte) (hb : s.status.busy = false)
      (hcap : a + bs.length ≤ capOf s sp) : EventResult s e (memStore s sp a bs)
  | reset : EventResult s .reset (hardReset s)
  | powerUp : EventResult s .powerUp (powerUp s)
  | completed (i : Instr) (hb : s.status.busy = true) (hd : decode s.cmd = .ok i) :
      EventResult s .engine (finish (effectOf i s))

theorem issue_result {s u : State} {c : Word32} (e : Event) (hb : s.status.busy = false) (h : issue c s = .next u) :
    EventResult s e u := by
  rcases issue_cases c s with ⟨_, h'⟩ | ⟨_, err, _, h'⟩ | ⟨_, i, _, h'⟩
  · cases h'.symm.trans h
    exact .unchanged e
  · cases h'.symm.trans h
    exact .errorTaken e err
  · rcases exec_idle_cases hb (h'.symm.trans h) with rfl | ⟨err, rfl⟩ | ⟨hacc, rfl⟩
    · exact .unchanged e
    · exact .errorTaken e err
    · exact .accepted e i hb hacc

theorem writeIdle_result {s u : State} {t : Target} {d : Word32} {bs : List Byte} (e : Event)
    (hb : s.status.busy = false) (hcap : ∀ sp a, t = .window sp a → a + bs.length ≤ capOf s sp)
    (h : writeIdle s t d bs = .next u) : EventResult s e u := by
  cases t with
  | ctrl r =>
    cases r with
    | cmd => exact issue_result e hb h
    | msgLen => cases h; exact .registers e d s.keyLen s.bidx s.blk hb
    | keyLen => cases h; exact .registers e s.msgLen d s.bidx s.blk hb
    | bidx => cases h; exact .registers e s.msgLen s.keyLen d s.blk hb
    | _ => cases h; exact .unchanged e
  | blkHalf i low => cases h; exact .registers e s.msgLen s.keyLen s.bidx _ hb
  | window sp a => cases h; exact .stored e sp a bs hb (hcap sp a rfl)
  | _ => cases h; exact .unchanged e

theorem hostWrite_result {s u : State} {o : Option Target} {d : Word32} {bs : List Byte} (e : Event)
    (hcap : ∀ sp a, o = some (.window sp a) → a + bs.length ≤ capOf s sp) (h : hostWrite s o d bs = .next u) :
    ∃ v r, EventResult s e v ∧ u = withReply r v := by
  rcases hostWrite_cases s o d bs with ⟨_, h'⟩ | ⟨t, ht, h'⟩
  · cases h'.symm.trans h
    exact ⟨s, _, .unchanged e, rfl⟩
  · obtain ⟨v, hv⟩ := writeTarget_next s t d bs
    rw [hv, mapNext_next] at h'
    cases h'.symm.trans h
    refine ⟨v, _, ?_, rfl⟩
    rcases writeTarget_cases s t d bs with ⟨_, h'⟩ | ⟨_, h'⟩ | ⟨_, _, _, h'⟩ | ⟨_, _, hb, h'⟩
    · cases h'.symm.trans hv
      exact .acknowledged e d
    · cases h'.symm.trans hv
      exact .enabled e _
    · cases h'.symm.trans hv
      exact .errorTaken e _
    · exact writeIdle_result e hb (fun sp a hw => hcap sp a (hw ▸ ht)) (h'.symm.trans hv)

theorem hostRead_result {s u : State} {o : Option Target} {f : State → Target → Word32} (e : Event)
    (h : hostRead s o f = .next u) : ∃ v r, EventResult s e v ∧ u = withReply r v := by
  obtain ⟨r, h'⟩ := hostRead_eq s o f
  cases h'.symm.trans h
  exact ⟨s, r, .unchanged e, rfl⟩

theorem engineTurn_result {s u : State} (h : engineTurn s = .next u) : EventResult s .engine u := by
  cases hb : s.status.busy with
  | false =>
    cases (engineTurn_idle hb).symm.trans h
    exact .unchanged _
  | true =>
    cases hd : decode s.cmd with
    | error c => simp [engineTurn, hb, hd] at h
    | ok i =>
      cases (engineTurn_inFlight hb hd).symm.trans h
      exact .completed i hb hd

/-- Every event that answers a next state has one of the results listed. -/
theorem perform_result {e : Event} {s u : State} (h : perform e s = .next u) :
    ∃ v r, EventResult s e v ∧ u = withReply r v := by
  cases e with
  | wr32 a d => exact hostWrite_result (bs := unpackBytes d) _ (fun _ _ hw => target4_window_bound hw) h
  | wr8 a b => exact hostWrite_result (bs := [b]) _ (fun _ _ hw => target1_window_bound hw) h
  | rd32 a => exact hostRead_result _ h
  | rd8 a => exact hostRead_result _ h
  | reset => cases h; exact ⟨_, _, .reset, rfl⟩
  | powerUp => cases h; exact ⟨_, _, .powerUp, rfl⟩
  | engine => exact ⟨u, u.reply, engineTurn_result h, rfl⟩

/-- A step is the result of its next event, or of the engine's turn when none is left. -/
theorem step_result {s t : State} (h : step s = .next t) :
    ∃ e es v r, (s.events = e :: es ∨ s.events = [] ∧ e = .engine) ∧
      EventResult (withEvents es s) e v ∧ t = withReply r v := by
  cases hev : s.events with
  | nil =>
    rw [step_nil hev] at h
    exact ⟨.engine, [], t, t.reply, .inr ⟨rfl, rfl⟩, (withEvents_of_events hev).symm ▸ engineTurn_result h, rfl⟩
  | cons e es =>
    rw [step_cons hev] at h
    obtain ⟨v, r, hv, rfl⟩ := perform_result h
    exact ⟨e, es, v, r, .inl rfl, hv, rfl⟩

/-! ## The memories and the parameters -/

theorem effectOf_memories (i : Instr) (s : State) :
    (effectOf i s).msg = s.msg ∧ (effectOf i s).key = s.key ∧ (effectOf i s).params = s.params := by
  obtain ⟨hmsg, hkey, -, -, -, -, -, -, -, hparams, -⟩ := effectOf_frame i s
  exact ⟨hmsg, hkey, hparams⟩

theorem memoryGood_congr {s t : State} (hm : t.msg = s.msg) (hk : t.key = s.key) (hp : t.params = s.params)
    (h : MemoryGood s) : MemoryGood t := by
  simpa only [MemoryGood, hm, hk, hp] using h

theorem memoryGood_memStore {s : State} {sp : Space} {a : Nat} {bs : List Byte} (hcap : a + bs.length ≤ capOf s sp)
    (h : MemoryGood s) : MemoryGood (memStore s sp a bs) := by
  obtain ⟨hm, hk, hmcap, hkcap⟩ := h
  obtain ⟨hm', hk'⟩ := memStore_wf sp a bs hm hk
  refine ⟨hm', hk', ?_⟩
  cases sp with
  | msg => exact ⟨mem_memSetAll_bound hmcap hcap, hkcap⟩
  | key => exact ⟨hmcap, mem_memSetAll_bound hkcap hcap⟩

theorem EventResult.params_eq {s t : State} {e : Event} (h : EventResult s e t) : t.params = s.params := by
  cases h with
  | errorTaken e c => simp
  | stored => simp
  | completed i => exact (effectOf_memories i s).2.2
  | _ => rfl

theorem EventResult.memoryGood {s t : State} {e : Event} (h : EventResult s e t) (hs : MemoryGood s) : MemoryGood t := by
  cases h with
  | errorTaken e c => exact memoryGood_congr (by simp) (by simp) (by simp) hs
  | stored e sp a bs hb hcap => exact memoryGood_memStore hcap hs
  | powerUp => simp [MemoryGood, memWf]
  | completed i =>
    obtain ⟨hm, hk, hp⟩ := effectOf_memories i s
    exact memoryGood_congr hm hk hp hs
  | _ => exact hs

/-- Settles O49: of all results only a window store writes the memories, and it ends inside the window. -/
theorem stepKeepsMemoriesCanonical : Obligations.StepKeepsMemoriesCanonical := by
  intro s t hs _ hstep
  obtain ⟨e, es, v, r, -, hv, rfl⟩ := step_result hstep
  have hs' : MemoryGood (withEvents es s) := hs
  exact ⟨hv.memoryGood hs', hv.params_eq⟩

/-! ## VARIANT and IVR -/

/-- VARIANT and IVR stand but for reset, power-up and the completion of a SETVAR. -/
theorem EventResult.variant_eq {s t : State} {e : Event} (h : EventResult s e t) :
    (t.variant = s.variant ∧ t.ivr = s.ivr) ∨ e = .reset ∨ e = .powerUp ∨
      (e = .engine ∧ s.status.busy = true ∧ ∃ tag x, decode s.cmd = .ok (.setvar tag x)) := by
  cases h with
  | reset => exact .inr (.inl rfl)
  | powerUp => exact .inr (.inr (.inl rfl))
  | completed i hb hd =>
    by_cases hi : ∃ tag x, i = .setvar tag x
    · obtain ⟨tag, x, rfl⟩ := hi
      exact .inr (.inr (.inr ⟨rfl, hb, tag, x, hd⟩))
    · exact .inl (effectOf_variant s (fun tag x heq => hi ⟨tag, x, heq⟩))
  | _ => exact .inl (by simp)

/-- Settles O51: of all results only the three of `EventResult.variant_eq` write VARIANT or IVR. -/
theorem onlySetvarWritesVariant : Obligations.OnlySetvarWritesVariant := by
  intro s t hstep hne
  obtain ⟨e, es, v, r, hev, hv, rfl⟩ := step_result hstep
  rcases hv.variant_eq with ⟨hvar, hivr⟩ | rfl | rfl | ⟨rfl, hb, hset⟩
  · simp [hvar, hivr] at hne
  · exact .inl (by simp_all)
  · exact .inr (.inl (by simp_all))
  · refine .inr (.inr ⟨?_, hb, hset⟩)
    rcases hev with hev | ⟨hev, -⟩
    · exact .inr (by simp [hev])
    · exact .inl hev

/-! ## The frame of a command -/

/-- Settles O31: `command_cases` lists what a command can do, and each of the four changes only what it may. -/
theorem commandFrame : Obligations.CommandFrame := by
  intro i s t h
  rw [exec_eq_command] at h
  rcases command_cases (encode i) (startStage i) (checksOf i s) (effectOf i) s with
    ⟨hb, h'⟩ | ⟨hb, _, h'⟩ | ⟨hb, _, e, _, h'⟩ | ⟨hb, _, _, h'⟩
  all_goals
    rw [h'] at h
    cases h
  · obtain ⟨hmsg, hkey, hml, hkl, hbidx, hien, hcmd, hstatus, -, hparams, hpu, hev, hreply⟩ := effectOf_frame i s
    exact ⟨hmsg, hkey, hml, hkl, hbidx, hien, hparams, hpu, hev, hreply, effectOf_variant s,
      fun _ => by simp [hcmd, hstatus], by simp [hb]⟩
  all_goals simp [hb]

end Sys2Proof.Proofs
end

section
/-! The invariants of spec/10_state.md R49. The register shapes (b) to (d) follow from the hash chain (g) and the variant's IV, so a
command has to keep only the smaller `DataGood`. -/

namespace Sys2Proof.Proofs

open Sys2Proof.Machine Sys2Proof.Safety

/-! ## The word of an accepted command -/

/-- The fields of a SETVAR word (30 R90, R91). -/
theorem setvar_word_fields (tag : VariantTag) (t : BitVec 10) :
    fieldTag (encode (.setvar tag t)) = tag.bits ∧ fieldT (encode (.setvar tag t)) = t ∧
    (encode (.setvar tag t)).extractLsb' 10 14 = 0 := by
  simp only [fieldTag, fieldT, encode]
  refine ⟨?_, ?_, ?_⟩ <;> ext k hk <;> simp only [BitVec.getElem_extractLsb', BitVec.getLsbD_append]
  · simp [show 24 + k < 28 by omega, hk]
  · simp [show k < 24 by omega, show k < 28 by omega, hk]
  · simp [show 10 + k < 24 by omega, show 10 + k < 28 by omega]

theorem ofBits_bits (tag : VariantTag) : VariantTag.ofBits tag.bits = some tag := by cases tag <;> rfl

theorem decodeSetvar_encode {tag : VariantTag} {t : BitVec 10} (h : (Instr.setvar tag t).wellFormed = true) :
    decodeSetvar (encode (.setvar tag t)) = .ok (.setvar tag t) := by
  obtain ⟨htag, ht, hrsvd⟩ := setvar_word_fields tag t
  simp only [decodeSetvar, htag, ofBits_bits, ht, hrsvd]
  cases tag <;> simp_all [Instr.wellFormed]

/-- A well-formed command is read back from its word. -/
theorem decode_encode {i : Instr} (h : i.wellFormed = true) : decode (encode i) = .ok i := by
  cases i with
  | setvar tag t =>
    have hop : fieldOp (encode (.setvar tag t)) = 1 := Laws.EncodeFields.setvar tag t
    simpa [decode, hop] using decodeSetvar_encode h
  | _ => rfl

/-! ## The shape of the word registers -/

theorem highZero_zeros (n : Nat) : HighZero (zeros n 64) := by
  intro i
  simp

theorem zeroFrom_zeros (k n m : Nat) : ZeroFrom k (zeros n m) := by
  intro i _
  simp

/-- A Word of a 32-bit variant leaves bits 63:32 of its register zero (10 R21). -/
theorem zext_toNat_lt {w : Nat} (hw : w = 32) (x : BitVec w) : (x.setWidth 64).toNat < 2 ^ 32 := by
  subst hw
  have := x.isLt
  rw [BitVec.toNat_setWidth]
  omega

theorem highZero_variantIv {tag : VariantTag} (t : BitVec 10) (hw : tagW tag = 32) : HighZero (variantIv tag t) := by
  cases tag with
  | sha1 => show ∀ i : Fin 8, ivSha1[i].toNat < 2 ^ 32; decide
  | sha224 => show ∀ i : Fin 8, ivSha224[i].toNat < 2 ^ 32; decide
  | sha256 => show ∀ i : Fin 8, ivSha256[i].toNat < 2 ^ 32; decide
  | _ => cases hw

theorem zeroFrom_variantIv {tag : VariantTag} (t : BitVec 10) (hf : tagFamily tag = .sha1) :
    ZeroFrom 5 (variantIv tag t) := by
  cases tag with
  | sha1 => show ∀ i : Fin 8, 5 ≤ i.val → ivSha1[i] = 0; decide
  | _ => cases hf

theorem highZero_expandRegs {tag : VariantTag} (hw : tagW tag = 32) (blk : Vector Reg64 16) :
    HighZero (expandRegs tag blk) := by
  intro i
  simp only [expandRegs, Fin.getElem_fin, regFile_getElem]
  split
  · exact zext_toNat_lt hw _
  · simp

theorem zeroFrom_expandRegs (tag : VariantTag) (blk : Vector Reg64 16) : ZeroFrom (tagN tag) (expandRegs tag blk) := by
  intro i hi
  simp only [expandRegs, Fin.getElem_fin, regFile_getElem]
  rw [if_neg (by omega)]

theorem highZero_compressRegs {tag : VariantTag} {h : Vector Reg64 8} (hw : tagW tag = 32) (hh : HighZero h)
    (w : Vector Reg64 80) : HighZero (compressRegs tag h w) := by
  intro i
  simp only [compressRegs, Fin.getElem_fin, Vector.getElem_ofFn]
  split
  · exact zext_toNat_lt hw _
  · exact hh i

/-- Compression leaves the Words from `sw` on alone (42 R181). -/
theorem zeroFrom_compressRegs {tag : VariantTag} {h : Vector Reg64 8} (hh : ZeroFrom (tagSw tag) h)
    (w : Vector Reg64 80) : ZeroFrom (tagSw tag) (compressRegs tag h w) := by
  intro i hi
  simp only [compressRegs, Fin.getElem_fin, Vector.getElem_ofFn]
  rw [if_neg (by omega)]
  exact hh i hi

/-- What the IV has and every compression keeps, the whole chain has (10 R49 g). -/
theorem chainFrom_induction {P : Vector Reg64 8 → Prop} {tag : VariantTag} {iv : Vector Reg64 8} (hiv : P iv)
    (hstep : ∀ h w, P h → P (compressRegs tag h w)) (bs : List (Vector Reg64 16)) : P (chainFrom tag iv bs) := by
  induction bs generalizing iv with
  | nil => exact hiv
  | cons b bs ih => exact ih (hstep iv _ hiv)

theorem chainFrom_append (tag : VariantTag) (iv : Vector Reg64 8) (bs : List (Vector Reg64 16)) (b : Vector Reg64 16) :
    chainFrom tag iv (bs ++ [b]) = compressRegs tag (chainFrom tag iv bs) (expandRegs tag b) := by
  simp [chainFrom]

/-! ## The schedule of the zero Block -/

@[simp] theorem delta0_zero {w : Nat} : delta0 (0#w) = 0#w := by
  simp [delta0, rotateRight, shiftRight]

@[simp] theorem delta1_zero {w : Nat} : delta1 (0#w) = 0#w := by
  simp [delta1, rotateRight, shiftRight]

theorem scheduleWord_zero {w : Nat} (f : Family) {S : List (BitVec w)} (hS : ∀ k, S.getD k 0 = 0) (i : Nat) :
    scheduleWord f S i = 0 := by
  cases f <;> simp only [scheduleWord, hS] <;> simp [rotateLeft]

theorem getD_append_singleton_zero {w : Nat} {S : List (BitVec w)} (hS : ∀ k, S.getD k 0 = 0) (k : Nat) :
    (S ++ [0]).getD k 0 = 0 := by
  have := hS k
  grind

/-- The schedule of a zero Block is zero, so that a zeroed W is a schedule too (10 R49 g). -/
theorem expand_zero_getD {w : Nat} (a : Algo) {blk : Vector (BitVec w) 16} (hblk : ∀ k, blk.toList.getD k 0 = 0) (k : Nat) :
    (expand a blk).getD k 0 = 0 := by
  suffices ∀ (l : List Nat) (S : List (BitVec w)), (∀ k, S.getD k 0 = 0) →
      ∀ k, (l.foldl (fun S i => S ++ [scheduleWord a.family S i]) S).getD k 0 = 0 from this _ _ hblk k
  intro l
  induction l with
  | nil => exact fun S hS => hS
  | cons i l ih =>
    intro S hS
    rw [List.foldl_cons, scheduleWord_zero a.family hS]
    exact ih _ (getD_append_singleton_zero hS)

theorem expandRegs_zeros (tag : VariantTag) : expandRegs tag (zeros 16 64) = zeros 80 64 := by
  have hblk : ∀ k, (truncFile (tagW tag) (zeros 16 64)).toList.getD k 0 = 0 := by
    intro k
    rw [List.getD_eq_getElem?_getD, Vector.getElem?_toList]
    by_cases hk : k < 16 <;> simp [hk]
  ext i hi : 1
  simp only [expandRegs, regFile_getElem, zeros_getElem]
  rw [expand_zero_getD _ hblk]
  simp

/-! ## The data registers -/

/-- What the data registers of a good state satisfy, without the parts that follow from it. -/
structure DataGood (s : State) : Prop where
  noVariant : NoVariantZero s
  digestTail : DigestTail s
  v_zero : s.v = zeros 8 64
  k0_zero : s.k0 = zeros 128 8
  chain : HashChain s
  variant : VariantGood s

/-- 10 R49 (b): the IV is narrow, and compression and expansion keep the registers so. -/
theorem DataGood.narrowWords {s : State} (h : DataGood s) : NarrowWords s := by
  intro hv hw
  obtain ⟨⟨bs, hh⟩, b, hwreg⟩ := h.chain hv
  obtain ⟨-, -, hivr⟩ := h.variant hv
  have hiv : HighZero s.ivr := hivr ▸ highZero_variantIv _ hw
  refine ⟨?_, hiv, hwreg ▸ highZero_expandRegs hw b, h.v_zero ▸ highZero_zeros 8⟩
  exact hh ▸ chainFrom_induction hiv (fun _ w hh => highZero_compressRegs hw hh w) bs

/-- 10 R49 (c): the IV of SHA-1 has five words, and compression keeps the others. -/
theorem DataGood.sha1Words {s : State} (h : DataGood s) : Sha1Words s := by
  intro hv hf
  obtain ⟨⟨bs, hh⟩, -⟩ := h.chain hv
  obtain ⟨-, -, hivr⟩ := h.variant hv
  have hsw : tagSw s.variant.tag = 5 := by
    cases htag : s.variant.tag <;> simp_all [tagFamily, tagSw]
  have hiv : ZeroFrom 5 s.ivr := hivr ▸ zeroFrom_variantIv _ hf
  refine ⟨?_, hiv, h.v_zero ▸ zeroFrom_zeros 5 8 64⟩
  rw [← hsw] at hiv ⊢
  exact hh ▸ chainFrom_induction hiv (fun _ w hh => zeroFrom_compressRegs hh w) bs

/-- 10 R49 (d). -/
theorem DataGood.shortSchedule {s : State} (h : DataGood s) : ShortSchedule s := by
  intro hv hn
  obtain ⟨-, b, hw⟩ := h.chain hv
  have hz := zeroFrom_expandRegs s.variant.tag b
  rwa [hn, ← hw] at hz

theorem inv_iff (s : State) :
    Inv s ↔ DataGood s ∧ (s.status.busy = false → s.seq = seqIdle) ∧ CommandGood s ∧ ErrorGood s ∧ MemoryGood s ∧
      s.params.legal := by
  constructor
  · rintro ⟨hno, -, -, -, htail, ⟨hv, hk0, hseq⟩, hchain, hvar, hcmd, herr, hmem, hlegal⟩
    exact ⟨⟨hno, htail, hv, hk0, hchain, hvar⟩, hseq, hcmd, herr, hmem, hlegal⟩
  · rintro ⟨hd, hseq, hcmd, herr, hmem, hlegal⟩
    exact ⟨hd.noVariant, hd.narrowWords, hd.sha1Words, hd.shortSchedule, hd.digestTail, ⟨hd.v_zero, hd.k0_zero, hseq⟩,
      hd.chain, hd.variant, hcmd, herr, hmem, hlegal⟩

/-- `DataGood` reads the data registers and VARIANT only. -/
theorem DataGood.congr {s t : State} (hd : DataGood s) (hh : t.h = s.h) (hw : t.w = s.w) (hv : t.v = s.v)
    (hivr : t.ivr = s.ivr) (hk0 : t.k0 = s.k0) (hdout : t.dout = s.dout) (hvar : t.variant = s.variant) : DataGood t := by
  obtain ⟨hno, htail, hvz, hk0z, hchain, hvg⟩ := hd
  constructor
  · simpa only [NoVariantZero, hh, hw, hv, hivr, hk0, hdout, hvar] using hno
  · simpa only [DigestTail, currentDlen, hdout, hvar] using htail
  · rw [hv, hvz]
  · rw [hk0, hk0z]
  · simpa only [HashChain, hh, hw, hivr, hvar] using hchain
  · simpa only [VariantGood, hivr, hvar] using hvg

/-- A state without a variant and with its data registers zero, as reset leaves it (10 R48). -/
theorem dataGood_of_noVariant {s : State} (hvalid : s.variant.valid = false) (hh : s.h = zeros 8 64) (hw : s.w = zeros 80 64)
    (hv : s.v = zeros 8 64) (hivr : s.ivr = zeros 8 64) (hk0 : s.k0 = zeros 128 8) (hdout : s.dout = zeros 64 8) :
    DataGood s where
  noVariant _ := ⟨hh, hivr, hw, hv, hdout, hk0⟩
  digestTail h := by simp [hvalid] at h
  v_zero := hv
  k0_zero := hk0
  chain h := by simp [hvalid] at h
  variant h := by simp [hvalid] at h

/-! ## What each command leaves in the data registers -/

theorem zeroFrom_doutOf {d : List Byte} {k : Nat} (hd : d.length ≤ k) : ZeroFrom k (doutOf d) := by
  intro i hi
  simp only [Fin.getElem_fin, doutOf_getElem]
  exact List.getD_eq_default _ _ (by omega)

/-- A digest is no longer than DLEN, so DOUT is zero behind it (10 R49 e). -/
theorem outputBytes_length_le {w : Nat} (a : Algo) (dlen : Nat) (st : Vector (BitVec w) 8) :
    (outputBytes a dlen st).length ≤ dlen := by
  rw [outputBytes_length]
  exact Nat.min_le_left _ _

/-- SETVAR's new VARIANT names a constructible variant, and its IV is in IVR (43 R220). -/
theorem variantGood_setvarEffect {tag : VariantTag} {t : BitVec 10} (s : State)
    (hwf : (Instr.setvar tag t).wellFormed = true) : VariantGood (setvarEffect tag t s) := by
  intro _
  cases tag <;> simp_all [setvarEffect, effectiveT, variantIv, Instr.wellFormed]

/-- H at the IV is a chain of no Blocks, and a zeroed W is the schedule of the zero Block. -/
theorem hashChain_of_h_eq_ivr {s : State} (hh : s.h = s.ivr) (hw : s.w = zeros 80 64) : HashChain s :=
  fun _ => ⟨⟨[], hh⟩, zeros 16 64, hw.trans (expandRegs_zeros _).symm⟩

/-- SETVAR, INIT and CLEAR begin a new chain, EXPAND, COMPRESS and BLOCK extend it, HASH and HMAC leave it begun afresh. -/
theorem hashChain_effectOf {i : Instr} {s : State} (h : HashChain s) : HashChain (effectOf i s) := by
  cases i with
  | nop => exact h
  | setvar tag t => exact hashChain_of_h_eq_ivr rfl rfl
  | init =>
    intro hv
    obtain ⟨-, hw⟩ := h hv
    exact ⟨⟨[], rfl⟩, hw⟩
  | padblk => exact h
  | expand =>
    intro hv
    obtain ⟨hh, -⟩ := h hv
    exact ⟨hh, s.blk, rfl⟩
  | compress =>
    intro hv
    obtain ⟨⟨bs, hh⟩, b, hw⟩ := h hv
    refine ⟨⟨bs ++ [b], ?_⟩, b, hw⟩
    rw [chainFrom_append]
    exact congrArg₂ (compressRegs s.variant.tag) hh hw
  | block =>
    intro hv
    obtain ⟨⟨bs, hh⟩, -⟩ := h hv
    refine ⟨⟨bs ++ [s.blk], ?_⟩, s.blk, rfl⟩
    rw [chainFrom_append]
    exact congrArg (compressRegs s.variant.tag · (expandRegs s.variant.tag s.blk)) hh
  | output => exact h
  | hash => exact hashChain_of_h_eq_ivr rfl rfl
  | hmac => exact hashChain_of_h_eq_ivr rfl rfl
  | clear => exact hashChain_of_h_eq_ivr rfl rfl

theorem digestTail_effectOf {i : Instr} {s : State} (h : DigestTail s) : DigestTail (effectOf i s) := by
  cases i with
  | setvar tag t => exact fun _ => zeroFrom_zeros _ 64 8
  | clear => exact fun _ => zeroFrom_zeros _ 64 8
  | output => exact fun _ => zeroFrom_doutOf (outputBytes_length_le _ _ _)
  | hash => exact fun _ => zeroFrom_doutOf (outputBytes_length_le _ _ _)
  | hmac => exact fun _ => zeroFrom_doutOf (outputBytes_length_le _ _ _)
  | _ => exact h

/-- NOP and CLEAR are acceptable without a variant, and leave the zero registers zero; SETVAR sets one. -/
theorem noVariantZero_effectOf {i : Instr} {s : State} (hacc : Acceptable i s) (h : NoVariantZero s) :
    NoVariantZero (effectOf i s) := by
  obtain ⟨-, hneeds, -⟩ := hacc
  cases i with
  | nop => exact h
  | setvar tag t => exact fun hv => by cases hv
  | clear =>
    intro hv
    obtain ⟨-, hivr, -⟩ := h hv
    exact ⟨hivr, hivr, rfl, rfl, rfl, rfl⟩
  | _ => exact fun hv => by simp [effectOf_variant, hneeds rfl] at hv

theorem variantGood_effectOf {i : Instr} {s : State} (hacc : Acceptable i s) (h : VariantGood s) :
    VariantGood (effectOf i s) := by
  obtain ⟨hwf, -⟩ := hacc
  cases i with
  | setvar tag t => exact variantGood_setvarEffect s hwf
  | _ => exact h

theorem effectOf_v {i : Instr} {s : State} (h : s.v = zeros 8 64) : (effectOf i s).v = zeros 8 64 := by
  cases i with
  | nop => exact h
  | init => exact h
  | padblk => exact h
  | expand => exact h
  | output => exact h
  | _ => rfl

theorem effectOf_k0 {i : Instr} {s : State} (h : s.k0 = zeros 128 8) : (effectOf i s).k0 = zeros 128 8 := by
  cases i with
  | setvar tag t => rfl
  | hmac => rfl
  | clear => rfl
  | _ => exact h

/-- The completion of an acceptable command keeps the data registers good. -/
theorem dataGood_effectOf {i : Instr} {s : State} (hacc : Acceptable i s) (h : DataGood s) : DataGood (effectOf i s) where
  noVariant := noVariantZero_effectOf hacc h.noVariant
  digestTail := digestTail_effectOf h.digestTail
  v_zero := effectOf_v h.v_zero
  k0_zero := effectOf_k0 h.k0_zero
  chain := hashChain_effectOf h.chain
  variant := variantGood_effectOf hacc h.variant

/-! ## The invariants after each event -/

/-- CMD still holds the word of the command in flight, and that command is acceptable (10 R33, 20 R71). -/
theorem acceptable_of_commandGood {s : State} {i : Instr} (h : CommandGood s) (hb : s.status.busy = true)
    (hd : decode s.cmd = .ok i) : Acceptable i s := by
  obtain ⟨-, hbusy⟩ := h
  obtain ⟨-, j, hj, hacc⟩ := hbusy hb
  cases hd.symm.trans hj
  exact hacc

theorem EventResult.dataGood {s t : State} {e : Event} (h : EventResult s e t) (hd : DataGood s) (hc : CommandGood s) :
    DataGood t := by
  cases h with
  | errorTaken e c => apply hd.congr <;> simp
  | stored => apply hd.congr <;> simp
  | reset => exact dataGood_of_noVariant rfl rfl rfl rfl rfl rfl rfl
  | powerUp => exact dataGood_of_noVariant rfl rfl rfl rfl rfl rfl rfl
  | completed i hb hdec =>
    exact (dataGood_effectOf (acceptable_of_commandGood hc hb hdec) hd).congr rfl rfl rfl rfl rfl rfl rfl
  | _ => exact hd.congr rfl rfl rfl rfl rfl rfl rfl

theorem EventResult.seq_idle {s t : State} {e : Event} (h : EventResult s e t)
    (hs : s.status.busy = false → s.seq = seqIdle) : t.status.busy = false → t.seq = seqIdle := by
  cases h with
  | errorTaken e c => simpa using hs
  | accepted => simp
  | stored => simpa using hs
  | _ => simp_all

/-- The word CMD holds after reset is NOP's (10 R48). -/
theorem decode_zero : decode 0 = .ok .nop := by decide

theorem commandGood_of_idle {s : State} {i : Instr} (hb : s.status.busy = false) (hd : decode s.cmd = .ok i) :
    CommandGood s :=
  ⟨⟨i, hd⟩, fun h => by simp [hb] at h⟩

/-- Neither CMD nor what acceptance depends on changes between accept and completion. -/
theorem commandGood_congr {s t : State} (hc : CommandGood s) (hcmd : t.cmd = s.cmd) (hbusy : t.status.busy = s.status.busy)
    (hdone : s.status.done = false → t.status.done = false) (hvar : t.variant = s.variant) (hml : t.msgLen = s.msgLen)
    (hkl : t.keyLen = s.keyLen) (hbidx : t.bidx = s.bidx) (hp : t.params = s.params) : CommandGood t := by
  obtain ⟨hdec, hfl⟩ := hc
  refine ⟨hcmd ▸ hdec, fun hb => ?_⟩
  obtain ⟨hd, i, hi, hacc⟩ := hfl (hbusy ▸ hb)
  exact ⟨hdone hd, i, hcmd ▸ hi, by simpa only [Acceptable, nblkView, hvar, hml, hkl, hbidx, hp] using hacc⟩

theorem EventResult.commandGood {s t : State} {e : Event} (h : EventResult s e t) (hc : CommandGood s) :
    CommandGood t := by
  obtain ⟨i, hi⟩ := hc.1
  cases h with
  | unchanged => exact hc
  | acknowledged e d => exact commandGood_congr hc rfl rfl (fun hd => by simp [hd]) rfl rfl rfl rfl rfl
  | enabled => exact hc
  | errorTaken e c => apply commandGood_congr hc <;> simp
  | accepted e j hb hacc =>
    have hdec : decode (encode j) = .ok j := decode_encode hacc.1
    exact ⟨⟨j, hdec⟩, fun _ => ⟨rfl, j, hdec, hacc⟩⟩
  | registers e m k b blk hb => exact commandGood_of_idle hb hi
  | stored e sp a bs hb => exact commandGood_of_idle (by simpa using hb) (by simpa using hi)
  | reset => exact commandGood_of_idle rfl decode_zero
  | powerUp => exact commandGood_of_idle rfl decode_zero
  | completed j hb hd => exact commandGood_of_idle (i := j) rfl (by rw [finish_cmd, effectOf_cmd, hd])

/-- The codes of 60 R270 are 1 to 8. -/
theorem errCode_range (c : ErrCode) : errCode c ≠ 0 ∧ (errCode c).toNat ≤ 8 := by
  cases c <;> decide

theorem errorGood_errorEntry (c : ErrCode) {s : State} (h : ErrorGood s) : ErrorGood (errorEntry c s) := by
  cases he : s.status.err with
  | true => rwa [errorEntry_of_err he]
  | false =>
    obtain ⟨hne, hle⟩ := errCode_range c
    rw [errorEntry_of_noErr he]
    exact ⟨by simpa using hne, hle⟩

theorem errorGood_acknowledge (d : Word32) {s : State} (h : ErrorGood s) : ErrorGood (acknowledge d s) := by
  obtain ⟨hiff, hle⟩ := h
  simp only [ErrorGood, acknowledge_status]
  cases d.getLsbD 2 with
  | true => simp
  | false => simpa using ⟨hiff, hle⟩

theorem EventResult.errorGood {s t : State} {e : Event} (h : EventResult s e t) (hs : ErrorGood s) : ErrorGood t := by
  cases h with
  | acknowledged e d => exact errorGood_acknowledge d hs
  | errorTaken e c => exact errorGood_errorEntry c hs
  | stored => simpa [ErrorGood] using hs
  | reset => simp [ErrorGood]
  | powerUp => simp [ErrorGood]
  | completed i => simpa [ErrorGood, effectOf_status] using hs
  | _ => exact hs

theorem EventResult.inv {s t : State} {e : Event} (h : EventResult s e t) (hs : Inv s) : Inv t := by
  rw [inv_iff] at hs ⊢
  obtain ⟨hd, hseq, hcmd, herr, hmem, hlegal⟩ := hs
  exact ⟨h.dataGood hd hcmd, h.seq_idle hseq, h.commandGood hcmd, h.errorGood herr, h.memoryGood hmem,
    h.params_eq ▸ hlegal⟩

/-- Settles O48: each part of the invariants is kept by each result an event can have. -/
theorem stepKeepsTheInvariants : Obligations.StepKeepsTheInvariants := by
  intro s t hs hstep
  obtain ⟨e, es, v, r, -, hv, rfl⟩ := step_result hstep
  have hs' : Inv (withEvents es s) := hs
  exact hv.inv hs'

/-! ## Reset -/

/-- Settles O47: there is no variant, CMD holds the word of NOP, and the memories are empty. -/
theorem resetMeetsTheInvariants : Obligations.ResetMeetsTheInvariants := by
  refine (inv_iff _).mpr ⟨dataGood_of_noVariant rfl rfl rfl rfl rfl rfl rfl, fun _ => rfl, ?_, ?_, ?_, ?_⟩
  · exact commandGood_of_idle rfl decode_zero
  · simp [ErrorGood, State.reset]
  · exact ⟨reset_memWf.1, reset_memWf.2, by simp [State.reset], by simp [State.reset]⟩
  · decide

/-- Settles O46: the fields are those of `hardReset`, and the views are 0 because VARIANT is not valid. -/
theorem resetLeavesTheTable : Obligations.ResetLeavesTheTable := by
  intro s
  refine ⟨hardReset s, rfl, rfl, rfl, rfl, rfl, rfl, rfl, rfl, rfl, rfl, ?_, ?_, ?_, rfl, rfl, rfl, ?_, ?_, ?_, ?_, rfl, rfl, rfl,
    rfl, rfl, rfl⟩
  · rw [hardReset_status]; decide
  · rw [hardReset_ien]; decide
  · rw [hardReset_variant]; decide
  · simp [nblkView]
  · simp [dlenView]
  · simp [blkszView]
  · simp [irq]

end Sys2Proof.Proofs
end

section
/-! The host port (spec/20_memory.md R60 to R77): which addresses answer, what the control registers read, and what a register write does. -/

namespace Sys2Proof.Proofs

open Sys2Proof.Machine Sys2Proof.Safety

/-! ## Transactions by target -/

theorem hostRead_none (s : State) (f : State → Target → Word32) :
    hostRead s none f = .next (withReply (.read 0 .busErr) s) := rfl

theorem hostRead_some (s : State) (t : Target) (f : State → Target → Word32) :
    hostRead s (some t) f = .next (withReply (.read (f s t) .ok) s) := rfl

theorem hostWrite_none (s : State) (d : Word32) (bs : List Byte) :
    hostWrite s none d bs = .next (withReply (.write .busErr) s) := rfl

/-- A write to a mapped target answers OK, whatever it does there. -/
theorem hostWrite_some (s : State) (t : Target) (d : Word32) (bs : List Byte) :
    ∃ u, hostWrite s (some t) d bs = .next (withReply (.write .ok) u) := by
  obtain ⟨u, hu⟩ := writeTarget_next s t d bs
  exact ⟨u, by rw [hostWrite, hu, mapNext_next]⟩

/-- An idle engine takes a write at its target, STATUS and IEN apart. -/
theorem hostWrite_idle {s u : State} {t : Target} {d : Word32} {bs : List Byte} (hb : s.status.busy = false)
    (hs : t ≠ .ctrl .status) (hi : t ≠ .ctrl .ien) (h : writeIdle s t d bs = .next u) :
    hostWrite s (some t) d bs = .next (withReply (.write .ok) u) := by
  simp [hostWrite, writeTarget, hs, hi, hb, h]

/-! ## The address map -/

/-- The control registers stand at the multiples of 4 up to 0x30 (10 R31). -/
theorem ctrlAt_isSome_iff (a : Nat) : (ctrlAt a).isSome ↔ a % 4 = 0 ∧ a ≤ 0x30 := by
  unfold ctrlAt
  split <;> simp
  intro h4
  simp only [imp_false] at *
  omega

theorem registerAt_isSome_iff {a : Nat} (h4 : a % 4 = 0) :
    (registerAt a).isSome ↔ a ≤ 0x30 ∨ (0x100 ≤ a ∧ a < 0x480) := by
  unfold registerAt
  split
  · rename_i ha
    rw [Option.isSome_map, ctrlAt_isSome_iff]
    omega
  · split_ifs <;> simp <;> omega

/-- The host addresses of the two windows (20 R62). -/
def InWindow (p : Config.Params) (n : Nat) : Prop :=
  (0x1000 ≤ n ∧ n < 0x1000 + p.keyCap) ∨ (0x1000000 ≤ n ∧ n < 0x1000000 + p.msgCap)

theorem windowAt_isSome_iff (p : Config.Params) (a size : Nat) :
    (windowAt p a size).isSome ↔
      (0x1000 ≤ a ∧ a + size ≤ 0x1000 + p.keyCap) ∨ (0x1000000 ≤ a ∧ a + size ≤ 0x1000000 + p.msgCap) := by
  unfold windowAt
  split_ifs <;> simp <;> omega

/-- The capacities being multiples of 4, an aligned word that begins in a window ends in it (00 R7, 20 R66). -/
theorem target4_isSome_iff {p : Config.Params} (hp : p.legal) (a : HostAddr) :
    (target4 p a).isSome ↔
      a.toNat % 4 = 0 ∧ (a.toNat ≤ 0x30 ∨ (0x100 ≤ a.toNat ∧ a.toNat < 0x480) ∨ InWindow p a.toNat) := by
  obtain ⟨hm, -, -, hk, -, -⟩ := hp
  unfold target4 InWindow
  split_ifs with h4 hr
  · simp [h4]
  · rw [registerAt_isSome_iff (by omega)]
    omega
  · rw [windowAt_isSome_iff]
    omega

theorem target1_isSome_iff (p : Config.Params) (a : HostAddr) : (target1 p a).isSome ↔ InWindow p a.toNat := by
  unfold target1 InWindow
  split_ifs with hr
  · simp
    omega
  · rw [windowAt_isSome_iff]
    omega

/-- Settles O39: the two address maps answer exactly where they name a target. -/
theorem onlyMappedAddressesAnswer : Obligations.OnlyMappedAddressesAnswer := by
  intro s a hp
  have h4 := target4_isSome_iff hp a
  have h1 := target1_isSome_iff s.params a
  refine ⟨fun h => ?_, fun h => ?_, fun h => ?_, fun h => ?_⟩
  · obtain ⟨t, ht⟩ := Option.isSome_iff_exists.mp (h4.mpr h)
    simp only [perform, ht]
    exact ⟨⟨_, hostRead_some s t read4⟩, fun d => hostWrite_some s t d _⟩
  · have ht : target4 s.params a = none := Option.not_isSome_iff_eq_none.mp (fun h' => h (h4.mp h'))
    simp only [perform, ht]
    exact ⟨hostRead_none s read4, fun d => hostWrite_none s d _⟩
  · obtain ⟨t, ht⟩ := Option.isSome_iff_exists.mp (h1.mpr h)
    simp only [perform, ht]
    exact ⟨⟨_, hostRead_some s t read1⟩, fun b => hostWrite_some s t _ _⟩
  · have ht : target1 s.params a = none := Option.not_isSome_iff_eq_none.mp (fun h' => h (h1.mp h'))
    simp only [perform, ht]
    exact ⟨hostRead_none s read1, fun b => hostWrite_none s _ _⟩

/-! ## What the control registers read -/

/-- Concatenation of fields as a sum, each field at its weight. -/
theorem toNat_append {m n : Nat} (x : BitVec m) (y : BitVec n) : (x ++ y).toNat = 2 ^ n * x.toNat + y.toNat := by
  rw [BitVec.toNat_append, Nat.shiftLeft_eq, Nat.mul_comm, Nat.two_pow_add_eq_or_of_lt y.isLt]

theorem toNat_flagBit (b : Bool) : (flagBit b).toNat = b.toNat := by
  cases b <;> rfl

theorem statusWord_toNat (st : Status) :
    (statusWord st).toNat = st.busy.toNat + 2 * st.done.toNat + 4 * st.err.toNat + 256 * st.errcode.toNat := by
  simp only [statusWord, toNat_append, toNat_flagBit, BitVec.ofNat_eq_ofNat, BitVec.toNat_ofNat]
  omega

theorem ienWord_toNat (ie : IntEnable) : (ienWord ie).toNat = 2 * ie.doneIe.toNat + 4 * ie.errIe.toNat := by
  simp only [ienWord, toNat_append, toNat_flagBit, BitVec.ofNat_eq_ofNat, BitVec.toNat_ofNat]
  omega

theorem variantWord_toNat (v : VariantReg) :
    (variantWord v).toNat = 2 ^ 31 * v.valid.toNat + 2 ^ 24 * v.tag.bits.toNat + v.t.toNat := by
  simp only [variantWord, toNat_append, toNat_flagBit, BitVec.ofNat_eq_ofNat, BitVec.toNat_ofNat]
  omega

/-- A 32-bit length makes fewer than 2^27 Blocks, the Block being 64 or 128 bytes. -/
theorem nblk_lt (tag : VariantTag) (n : Word32) : nblk (tagW tag) n.toNat < 2 ^ 27 := by
  have hn := n.isLt
  have hw : tagW tag = 32 ∨ tagW tag = 64 := by cases tag <;> simp [tagW]
  rcases hw with hw | hw <;> simp only [nblk, wordBytes, hw] <;> omega

theorem nblkView_lt (s : State) : nblkView s < 2 ^ 27 := by
  unfold nblkView
  split
  · exact nblk_lt _ _
  · decide

theorem digestLen_lt (tag : VariantTag) (t : BitVec 10) : digestLen tag t.toNat < 2 ^ 32 := by
  have ht := t.isLt
  cases tag <;> simp only [digestLen] <;> omega

theorem dlenView_lt (s : State) : dlenView s < 2 ^ 32 := by
  unfold dlenView
  split
  · exact digestLen_lt _ _
  · decide

theorem blkszView_lt (s : State) : blkszView s < 2 ^ 32 := by
  unfold blkszView
  split
  · cases s.variant.tag <;> decide
  · decide

/-- Settles O40: each offset names its register, and the fields of a register word add up to its value. -/
theorem controlRegistersRead : Obligations.ControlRegistersRead := by
  intro s
  refine ⟨statusWord s.status, ienWord s.ien, variantWord s.variant, rfl, rfl, rfl, statusWord_toNat _, rfl, ienWord_toNat _,
    rfl, variantWord_toNat _, rfl, rfl, rfl, rfl, rfl, rfl, rfl, rfl, ?_, nblkView_lt s, ?_, dlenView_lt s, ?_, blkszView_lt s⟩
  · simp only [nblkView, nblk, wordBytes]
  · simp only [dlenView, currentDlen]
  · simp only [blkszView]

/-! ## Register writes -/

/-- Settles O35: the write reaches STATUS whether or not a command is in flight. -/
theorem statusWriteAcknowledges : Obligations.StatusWriteAcknowledges := by
  intro s d
  have h : perform (.wr32 0x008 d) s = .next (withReply (.write .ok) (acknowledge d s)) := by
    rfl
  rw [h, withReply, acknowledge]
  generalize d.getLsbD 1 = done, d.getLsbD 2 = err
  cases done <;> cases err <;> simp

/-- The targets an idle engine ignores writes to (20 R69). -/
def ReadOnly : Target → Prop
  | .ctrl r => r ≠ .cmd ∧ r ≠ .status ∧ r ≠ .ien ∧ r ≠ .msgLen ∧ r ≠ .keyLen ∧ r ≠ .bidx
  | .hHalf _ _ => True
  | .doutWord _ => True
  | .wHalf _ _ => True
  | .blkHalf _ _ => False
  | .window _ _ => False

theorem hostWrite_readOnly {s : State} {t : Target} (d : Word32) (bs : List Byte) (hb : s.status.busy = false)
    (ht : ReadOnly t) : hostWrite s (some t) d bs = .next (withReply (.write .ok) s) := by
  refine hostWrite_idle hb ?_ ?_ ?_
  · rintro rfl; simp [ReadOnly] at ht
  · rintro rfl; simp [ReadOnly] at ht
  · cases t with
    | ctrl r =>
      cases r with
      | cmd | status | ien | msgLen | keyLen | bidx => simp [ReadOnly] at ht
      | _ => rfl
    | blkHalf i low => exact ht.elim
    | window sp a => exact ht.elim
    | _ => rfl

/-- The offsets of the registers that ignore writes while idle (20 R69, 10 R31): ID, VARIANT, the views, H, DOUT and W. -/
theorem registerAt_readOnly {a : Nat} (h4 : a % 4 = 0)
    (ha : a = 0x000 ∨ a = 0x010 ∨ (0x020 ≤ a ∧ a ≤ 0x030) ∨ (0x100 ≤ a ∧ a < 0x180) ∨ (0x200 ≤ a ∧ a < 0x480)) :
    ∃ t, registerAt a = some t ∧ ReadOnly t := by
  by_cases hr : a < 0x100
  · have hctrl : a = 0x000 ∨ a = 0x010 ∨ a = 0x020 ∨ a = 0x024 ∨ a = 0x028 ∨ a = 0x02C ∨ a = 0x030 := by omega
    rcases hctrl with rfl | rfl | rfl | rfl | rfl | rfl | rfl <;> exact ⟨_, rfl, by simp [ReadOnly]⟩
  · unfold registerAt
    rw [if_neg hr]
    split_ifs
    · exact ⟨_, rfl, trivial⟩
    · exact ⟨_, rfl, trivial⟩
    · omega
    · exact ⟨_, rfl, trivial⟩
    · omega

/-- A register offset is looked up in the register block (20 R62). -/
theorem target4_register {p : Config.Params} {a : HostAddr} (h4 : a.toNat % 4 = 0) (ha : a.toNat < 0x1000) :
    target4 p a = registerAt a.toNat := by
  simp [target4, h4, ha]

/-- Settles O44: the offsets it lists name read-only targets, which `writeIdle` ignores. -/
theorem registerWrites : Obligations.RegisterWrites := by
  refine ⟨fun s d => ⟨fun hb => ⟨?_, ?_, ?_⟩, rfl⟩, fun s a d hb h4 ha => ?_⟩
  · exact hostWrite_idle (u := { s with msgLen := d }) hb (by decide) (by decide) rfl
  · exact hostWrite_idle (u := { s with keyLen := d }) hb (by decide) (by decide) rfl
  · exact hostWrite_idle (u := { s with bidx := d }) hb (by decide) (by decide) rfl
  · obtain ⟨t, ht, hro⟩ := registerAt_readOnly h4 ha
    rw [perform, target4_register h4 (by omega), ht]
    exact hostWrite_readOnly d _ hb hro

end Sys2Proof.Proofs
end

section
/-! The micro-operations of spec/42_compression.md R183 run to the end of their stage: the schedule loop leaves the expanded Block in W,
the round loop and the feedback leave the compressed State in H. -/

namespace Sys2Proof.Proofs

open Sys2Proof.Machine Sys2Proof.Safety

/-! ## Runs of micro-operations -/

/-- Some number of micro-operations of command `i` leads from `s` to `t`. -/
def Reaches (i : Instr) (s t : State) : Prop := ∃ k, microRun i k s = t

theorem microRun_add (i : Instr) (k l : Nat) (s : State) : microRun i (k + l) s = microRun i l (microRun i k s) := by
  induction k generalizing s with
  | zero => rw [Nat.zero_add]; rfl
  | succ k ih => rw [Nat.succ_add]; exact ih _

theorem Reaches.refl (i : Instr) (s : State) : Reaches i s s := ⟨0, rfl⟩

theorem Reaches.step {i : Instr} {s t : State} (h : microOp i s = t) : Reaches i s t := ⟨1, h⟩

theorem Reaches.trans {i : Instr} {s t u : State} (hst : Reaches i s t) (htu : Reaches i t u) : Reaches i s u := by
  obtain ⟨k, rfl⟩ := hst
  obtain ⟨l, rfl⟩ := htu
  exact ⟨k + l, microRun_add i k l s⟩

@[simp] theorem seqTo_stage (st : Stage) (t : Nat) (s : State) : (seqTo st t s).seq.stage = st := rfl

/-- The round index of SEQ is 7 bits wide, enough for the 80 rounds (10 R29). -/
theorem seqTo_t {t : Nat} (ht : t < 128) (st : Stage) (s : State) : (seqTo st t s).seq.t.toNat = t := by
  simp [seqTo, Nat.mod_eq_of_lt ht]

theorem activeTag_congr (i : Instr) {s t : State} (h : t.variant = s.variant) : activeTag i t = activeTag i s := by
  cases i with
  | setvar tag x => rfl
  | _ => exact congrArg VariantReg.tag h

/-! ## The schedule loop -/

section Schedule

variable {w : Nat}

/-- The schedule after the entries below `n` are made (42 R171 to R173). -/
def scheduleUpTo (f : Family) (blk : Vector (BitVec w) 16) (n : Nat) : List (BitVec w) :=
  (List.range' 16 (n - 16)).foldl (fun S i => S ++ [scheduleWord f S i]) blk.toList

theorem expand_eq_scheduleUpTo (a : Algo) (blk : Vector (BitVec w) 16) : expand a blk = scheduleUpTo a.family blk a.n := rfl

theorem scheduleUpTo_succ (f : Family) (blk : Vector (BitVec w) 16) {n : Nat} (hn : 16 ≤ n) :
    scheduleUpTo f blk (n + 1) = scheduleUpTo f blk n ++ [scheduleWord f (scheduleUpTo f blk n) n] := by
  obtain ⟨k, rfl⟩ := Nat.exists_eq_add_of_le hn
  simp [scheduleUpTo, show 16 + k + 1 - 16 = k + 1 by omega, List.range'_1_concat]

theorem scheduleUpTo_length (f : Family) (blk : Vector (BitVec w) 16) {n : Nat} (hn : 16 ≤ n) :
    (scheduleUpTo f blk n).length = n := by
  rw [scheduleUpTo, foldl_append_length]
  simp
  omega

/-- A schedule word reads only entries before it. -/
theorem scheduleWord_congr (f : Family) {S S' : List (BitVec w)} {n : Nat} (hn : 16 ≤ n)
    (h : ∀ k < n, S.getD k 0 = S'.getD k 0) : scheduleWord f S n = scheduleWord f S' n := by
  cases f with
  | sha1 => simp only [scheduleWord, h (n - 3) (by omega), h (n - 8) (by omega), h (n - 14) (by omega), h (n - 16) (by omega)]
  | sha2 => simp only [scheduleWord, h (n - 16) (by omega), h (n - 15) (by omega), h (n - 7) (by omega), h (n - 2) (by omega)]

end Schedule

/-- W holds the entries of the schedule of `blk` below `n`. -/
def HoldsSchedule (tag : VariantTag) (blk : Vector (BitVec (tagW tag)) 16) (n : Nat) (w : Vector Reg64 80) : Prop :=
  ∀ k (hk : k < 80), k < n → w[k] = ((scheduleUpTo (tagFamily tag) blk n).getD k 0).setWidth 64

theorem map_setWidth_getD {n k : Nat} (m : Nat) (r : Vector Reg64 n) (hk : k < n) :
    (r.toList.map (fun x => x.setWidth m)).getD k 0 = r[k].setWidth m := by
  simp [List.getD_eq_getElem?_getD, hk]

/-- W with the schedule word of entry `n` written (42 R183, uSCHED). -/
def storeScheduleWord (tag : VariantTag) (n : Nat) (w : Vector Reg64 80) : Vector Reg64 80 :=
  let x := (scheduleWord (tagFamily tag) (w.toList.map (fun x => x.setWidth (tagW tag))) n).setWidth 64
  Vector.ofFn (fun (i : Fin 80) => if i.val = n then x else w[i])

theorem holdsSchedule_store {tag : VariantTag} {blk : Vector (BitVec (tagW tag)) 16} {n : Nat} {w : Vector Reg64 80}
    (hn : 16 ≤ n) (hn80 : n < 80) (h : HoldsSchedule tag blk n w) :
    HoldsSchedule tag blk (n + 1) (storeScheduleWord tag n w) := by
  have hword : scheduleWord (tagFamily tag) (w.toList.map (fun x => x.setWidth (tagW tag))) n =
      scheduleWord (tagFamily tag) (scheduleUpTo (tagFamily tag) blk n) n := by
    refine scheduleWord_congr _ hn (fun k hk => ?_)
    rw [map_setWidth_getD _ _ (by omega), h k (by omega) hk, setWidth_setWidth_64 (tagW_le tag)]
  have hlen := scheduleUpTo_length (tagFamily tag) blk hn
  intro k hk hkn
  simp only [storeScheduleWord, Vector.getElem_ofFn, Fin.getElem_fin, hword]
  rw [scheduleUpTo_succ _ _ hn]
  split
  · next heq =>
    subst heq
    rw [List.getD_append_right _ _ _ _ (by omega), hlen]
    simp
  · rw [List.getD_append _ _ _ _ (by omega)]
    exact h k hk (by omega)

theorem microOp_sched {i : Instr} {s : State} {n : Nat} (hn : n < 128) (w : Vector Reg64 80) :
    microOp i (seqTo .uSCHED n { s with w := w }) =
      seqTo (if n + 1 < tagN (activeTag i s) then .uSCHED else .uZERO) (n + 1)
        { s with w := storeScheduleWord (activeTag i s) n w } := by
  have htag : activeTag i (seqTo .uSCHED n { s with w := w }) = activeTag i s := activeTag_congr i rfl
  simp only [microOp, seqTo_stage, htag, microSched, seqTo_t hn]
  rfl

/-- The loop of uSCHED fills W up to entry `n` of the variant (42 R183). -/
theorem schedule_reaches (i : Instr) (s : State) (blk : Vector (BitVec (tagW (activeTag i s))) 16) {n : Nat}
    {w : Vector Reg64 80} (hn : 16 ≤ n) (hlt : n < tagN (activeTag i s)) (hw : HoldsSchedule (activeTag i s) blk n w) :
    ∃ w', HoldsSchedule (activeTag i s) blk (tagN (activeTag i s)) w' ∧
      Reaches i (seqTo .uSCHED n { s with w := w }) (seqTo .uZERO (tagN (activeTag i s)) { s with w := w' }) := by
  have hN := tagN_le (activeTag i s)
  have hop := microOp_sched (i := i) (s := s) (n := n) (by omega) w
  have hw' := holdsSchedule_store hn (by omega) hw
  by_cases hnext : n + 1 < tagN (activeTag i s)
  · rw [if_pos hnext] at hop
    obtain ⟨w'', hw'', hr⟩ := schedule_reaches i s blk (by omega) hnext hw'
    exact ⟨w'', hw'', (Reaches.step hop).trans hr⟩
  · rw [if_neg hnext] at hop
    have hlast : n + 1 = tagN (activeTag i s) := by omega
    rw [hlast] at hop hw'
    exact ⟨_, hw', .step hop⟩
termination_by tagN (activeTag i s) - n

theorem lt_tagN (tag : VariantTag) : 16 < tagN tag := by cases tag <;> decide

/-- W with the entries from the iteration count on zeroed (42 R183, uZERO). -/
def zeroTail (tag : VariantTag) (w : Vector Reg64 80) : Vector Reg64 80 :=
  Vector.ofFn (fun (k : Fin 80) => if k.val < tagN tag then w[k] else 0)

theorem zeroTail_of_holdsSchedule {tag : VariantTag} {blk : Vector Reg64 16} {w : Vector Reg64 80}
    (h : HoldsSchedule tag (truncFile (tagW tag) blk) (tagN tag) w) : zeroTail tag w = expandRegs tag blk := by
  ext k hk : 1
  simp only [zeroTail, Vector.getElem_ofFn, Fin.getElem_fin, expandRegs, regFile_getElem]
  split
  · next hkn => exact h k hk hkn
  · rfl

/-- uCOPY, the loop of uSCHED, and then uZERO on the schedule of BLK. -/
theorem copy_reaches_zero {i : Instr} {s : State} (hs : s.seq.stage = .uCOPY) :
    ∃ w, zeroTail (activeTag i s) w = expandRegs (activeTag i s) s.blk ∧
      Reaches i s (seqTo .uZERO (tagN (activeTag i s)) { s with w := w }) := by
  have hcopy : microOp i s = microCopy (activeTag i s) s := by simp only [microOp, hs]
  have hheld : HoldsSchedule (activeTag i s) (truncFile (tagW (activeTag i s)) s.blk) 16
      (microCopy (activeTag i s) s).w := by
    intro k hk hk16
    simp [microCopy, seqTo, hk16, scheduleUpTo]
  obtain ⟨w, hw, hr⟩ := schedule_reaches i s _ (le_refl 16) (lt_tagN _) hheld
  exact ⟨w, zeroTail_of_holdsSchedule hw, (Reaches.step hcopy).trans hr⟩

/-- Every command but EXPAND goes on from the schedule to uLOAD (42 R183). -/
theorem copy_reaches_load {i : Instr} {s : State} (hi : i ≠ .expand) (hs : s.seq.stage = .uCOPY) :
    Reaches i s (seqTo .uLOAD 0 { s with w := expandRegs (activeTag i s) s.blk }) := by
  obtain ⟨w, hw, hr⟩ := copy_reaches_zero (i := i) hs
  refine hr.trans (.step ?_)
  have htag : activeTag i (seqTo .uZERO (tagN (activeTag i s)) { s with w := w }) = activeTag i s := activeTag_congr i rfl
  simp only [microOp, seqTo_stage, htag, microZero, if_neg hi, ← hw]
  rfl

/-- EXPAND ends with the schedule (42 R183). -/
theorem copy_reaches_finish {s : State} (hs : s.seq.stage = .uCOPY) :
    Reaches .expand s (finish (expandEffect s)) := by
  obtain ⟨w, hw, hr⟩ := copy_reaches_zero (i := .expand) hs
  refine hr.trans (.step ?_)
  have hw' : zeroTail s.variant.tag w = expandRegs s.variant.tag s.blk := hw
  simp only [expandEffect, ← hw']
  rfl

/-! ## The round loop -/

section Rounds

variable {w : Nat}

/-- The working variables after `n` rounds (42 R178). -/
def roundsUpTo (a : Algo) (st : Vector (BitVec w) 8) (S : List (BitVec w)) (n : Nat) : Vector (BitVec w) 8 :=
  (List.range n).foldl (fun V t => roundFn a t V (S.getD t 0)) st

theorem rounds_eq_roundsUpTo (a : Algo) (st : Vector (BitVec w) 8) (S : List (BitVec w)) :
    rounds a st S = roundsUpTo a st S a.n := rfl

theorem roundsUpTo_succ (a : Algo) (st : Vector (BitVec w) 8) (S : List (BitVec w)) (n : Nat) :
    roundsUpTo a st S (n + 1) = roundFn a n (roundsUpTo a st S n) (S.getD n 0) := by
  simp [roundsUpTo, List.range_succ]

/-- Two States with the same first `n` Words. -/
def AgreeBelow (n : Nat) (V V' : Vector (BitVec w) 8) : Prop := ∀ k (_ : k < 8), k < n → V[k] = V'[k]

/-- SHA-1 rounds read and write `V[0..4]` by themselves (42 R176). -/
theorem agreeBelow_roundSha1 {V V' : Vector (BitVec w) 8} (k : BitVec w) (t : Nat) (x : BitVec w)
    (h : AgreeBelow 5 V V') : AgreeBelow 5 (roundSha1 k t V x) (roundSha1 k t V' x) := by
  have h0 : V[0] = V'[0] := h 0 (by omega) (by omega)
  have h1 : V[1] = V'[1] := h 1 (by omega) (by omega)
  have h2 : V[2] = V'[2] := h 2 (by omega) (by omega)
  have h3 : V[3] = V'[3] := h 3 (by omega) (by omega)
  have h4 : V[4] = V'[4] := h 4 (by omega) (by omega)
  intro k _ hk
  interval_cases k <;> simp [roundSha1, h0, h1, h2, h3, h4]

/-- A round makes the Words of the State from the Words of the State, and from nothing else in V. -/
theorem agreeBelow_roundFn (tag : VariantTag) {V V' : Vector (BitVec w) 8} (t : Nat) (x : BitVec w)
    (h : AgreeBelow (tagSw tag) V V') :
    AgreeBelow (tagSw tag) (roundFn (tagAlgo tag) t V x) (roundFn (tagAlgo tag) t V' x) := by
  by_cases hsw : tagSw tag = 8
  · have hV : V = V' := by
      ext k hk : 1
      exact h k hk (by omega)
    rw [hV]
    exact fun _ _ _ => rfl
  · cases tag with
    | sha1 => exact agreeBelow_roundSha1 _ t x h
    | _ => exact absurd rfl hsw

theorem agreeBelow_roundsUpTo (tag : VariantTag) {V V' : Vector (BitVec w) 8} {S S' : List (BitVec w)} {n : Nat}
    (hS : ∀ k < n, S.getD k 0 = S'.getD k 0) (h : AgreeBelow (tagSw tag) V V') :
    AgreeBelow (tagSw tag) (roundsUpTo (tagAlgo tag) V S n) (roundsUpTo (tagAlgo tag) V' S' n) := by
  induction n with
  | zero => exact h
  | succ n ih =>
    rw [roundsUpTo_succ, roundsUpTo_succ, hS n (by omega)]
    exact agreeBelow_roundFn tag n _ (ih (fun k hk => hS k (by omega)))

end Rounds

theorem microOp_round {i : Instr} {s : State} {n : Nat} (hn : n < 128) (v : Vector Reg64 8) :
    microOp i (seqTo .uROUND n { s with v := v }) =
      seqTo (if n + 1 < tagN (activeTag i s) then .uROUND else .uFEED) (n + 1)
        { s with v := zextFile (roundFn (tagAlgo (activeTag i s)) n (truncFile (tagW (activeTag i s)) v)
            ((truncW (activeTag i s) s).getD n 0)) } := by
  have htag : activeTag i (seqTo .uROUND n { s with v := v }) = activeTag i s := activeTag_congr i rfl
  simp only [microOp, seqTo_stage, htag, microRound, seqTo_t hn]
  rfl

/-- The loop of uROUND makes all the rounds of the variant (42 R183). -/
theorem rounds_reach (i : Instr) (s : State) (st : Vector (BitVec (tagW (activeTag i s))) 8) {n : Nat} {v : Vector Reg64 8}
    (hlt : n < tagN (activeTag i s))
    (hv : truncFile _ v = roundsUpTo (tagAlgo (activeTag i s)) st (truncW (activeTag i s) s) n) :
    ∃ v', truncFile _ v' = roundsUpTo (tagAlgo (activeTag i s)) st (truncW (activeTag i s) s) (tagN (activeTag i s)) ∧
      Reaches i (seqTo .uROUND n { s with v := v }) (seqTo .uFEED (tagN (activeTag i s)) { s with v := v' }) := by
  have hN := tagN_le (activeTag i s)
  have hop := microOp_round (i := i) (s := s) (n := n) (by omega) v
  have hv' := truncFile_zextFile (tagW_le (activeTag i s))
    (roundFn (tagAlgo (activeTag i s)) n (truncFile (tagW (activeTag i s)) v) ((truncW (activeTag i s) s).getD n 0))
  rw [hv, ← roundsUpTo_succ] at hv'
  rw [hv, ← roundsUpTo_succ] at hop
  by_cases hnext : n + 1 < tagN (activeTag i s)
  · rw [if_pos hnext] at hop
    obtain ⟨v'', hv'', hr⟩ := rounds_reach i s st hnext hv'
    exact ⟨v'', hv'', (Reaches.step hop).trans hr⟩
  · rw [if_neg hnext] at hop
    have hlast : n + 1 = tagN (activeTag i s) := by omega
    rw [hlast] at hop hv'
    exact ⟨_, hv', .step hop⟩
termination_by tagN (activeTag i s) - n

/-- The first `n` Words of W are the schedule that COMPRESS reads (42 R181). -/
theorem scheduleOf_getD {tag : VariantTag} {w : Vector Reg64 80} {k : Nat} (hk : k < tagN tag) :
    (scheduleOf tag w).getD k 0 = (w[k]'(Nat.lt_of_lt_of_le hk (tagN_le tag))).setWidth (tagW tag) := by
  have := tagN_le tag
  simp [scheduleOf, List.getD_eq_getElem?_getD, hk, show k < 80 by omega]

/-- H after the feedback of working variables that agree with the rounds of H on the Words of the State (42 R179). -/
theorem feed_eq_compressRegs {tag : VariantTag} {s : State} {V : Vector (BitVec (tagW tag)) 8}
    (hv : truncFile (tagW tag) s.v = V)
    (hV : AgreeBelow (tagSw tag) V (rounds (tagAlgo tag) (truncFile (tagW tag) s.h) (scheduleOf tag s.w))) :
    (microFeed tag s).h = compressRegs tag s.h s.w := by
  ext k hk : 1
  simp only [microFeed, compressRegs, compress, Vector.getElem_ofFn, Fin.getElem_fin]
  split
  · next hlt =>
    have hvk : s.v[k].setWidth (tagW tag) = V[k] := by rw [← hv, truncFile_getElem]
    have hsw : k < (tagAlgo tag).sw := hlt
    rw [if_pos hsw, hvk, hV k hk hlt, truncFile_getElem]
  · rfl

/-- uLOAD gives V the Words of the State (42 R175). -/
theorem agreeBelow_microLoad (tag : VariantTag) (s : State) :
    AgreeBelow (tagSw tag) (truncFile (tagW tag) (microLoad tag s).v) (truncFile (tagW tag) s.h) := by
  intro k hk hlt
  simp [microLoad, seqTo, hlt, setWidth_setWidth_64 (tagW_le tag)]

/-- The rounds read from W the schedule that COMPRESS takes from it. -/
theorem truncW_getD {tag : VariantTag} (s : State) {k : Nat} (hk : k < tagN tag) :
    (truncW tag s).getD k 0 = (scheduleOf tag s.w).getD k 0 := by
  have := tagN_le tag
  rw [truncW, map_setWidth_getD _ _ (by omega), scheduleOf_getD hk]

/-- The feedback after all the rounds from uLOAD compresses H with the schedule in W (42 R181). -/
theorem microFeed_after_rounds {tag : VariantTag} {s : State} {v : Vector Reg64 8}
    (hv : truncFile (tagW tag) v =
      roundsUpTo (tagAlgo tag) (truncFile (tagW tag) (microLoad tag s).v) (truncW tag s) (tagN tag)) (n : Nat) :
    microFeed tag (seqTo .uFEED n { s with v := v }) =
      seqTo .uFEED n { s with h := compressRegs tag s.h s.w, v := zeros 8 64 } := by
  have hfeed : (microFeed tag (seqTo .uFEED n { s with v := v })).h = compressRegs tag s.h s.w :=
    feed_eq_compressRegs (s := seqTo .uFEED n { s with v := v }) hv
      (agreeBelow_roundsUpTo tag (fun _ hk => truncW_getD s hk) (agreeBelow_microLoad tag s))
  rw [← hfeed]
  rfl

/-- uLOAD, the rounds and the feedback compress H with the schedule in W; then the command goes on as `afterFeed` says. -/
theorem load_reaches_feed {i : Instr} {s : State} (hs : s.seq.stage = .uLOAD) :
    Reaches i s (afterFeed i (seqTo .uFEED (tagN (activeTag i s))
      { s with h := compressRegs (activeTag i s) s.h s.w, v := zeros 8 64 })) := by
  have hload : microOp i s = microLoad (activeTag i s) s := by simp only [microOp, hs]
  have hpos : 0 < tagN (activeTag i s) := Nat.zero_lt_of_lt (lt_tagN _)
  obtain ⟨v, hv, hr⟩ := rounds_reach i s (truncFile _ (microLoad (activeTag i s) s).v) hpos rfl
  refine ((Reaches.step hload).trans hr).trans (.step ?_)
  have htag : activeTag i (seqTo .uFEED (tagN (activeTag i s)) { s with v := v }) = activeTag i s := activeTag_congr i rfl
  simp only [microOp, seqTo_stage, htag, microFeed_after_rounds hv]

/-- From uCOPY to the feedback: the schedule of BLK in W, H compressed with it. -/
theorem copy_reaches_feed {i : Instr} {s : State} (hi : i ≠ .expand) (hs : s.seq.stage = .uCOPY) :
    Reaches i s (afterFeed i (seqTo .uFEED (tagN (activeTag i s))
      { s with
        w := expandRegs (activeTag i s) s.blk
        h := compressRegs (activeTag i s) s.h (expandRegs (activeTag i s) s.blk)
        v := zeros 8 64 })) := by
  have hload := copy_reaches_load hi hs
  have hfeed := load_reaches_feed (i := i)
    (s := seqTo .uLOAD 0 { s with w := expandRegs (activeTag i s) s.blk }) rfl
  rw [activeTag_congr i (s := s) rfl] at hfeed
  exact hload.trans hfeed

/-! ## EXPAND, COMPRESS and BLOCK -/

/-- Settles O56: EXPAND ends after its schedule, COMPRESS and BLOCK after the feedback. -/
theorem microOpsRefineBlockCommands : Obligations.MicroOpsRefineBlockCommands := by
  intro i s a t hi hb hexec ha hdone
  obtain ⟨-, rfl⟩ := exec_accepted hb hexec ha
  rw [exec_inFlight i ha] at hdone
  cases hdone
  rcases hi with rfl | rfl | rfl
  · exact copy_reaches_finish rfl
  · exact load_reaches_feed (i := .compress) rfl
  · exact copy_reaches_feed (i := .block) (by decide) rfl

end Sys2Proof.Proofs
end

section
/-! HASH as a loop of blocks (spec/44_hash_hmac.md R241, R242): the registers hold at every Block what the pure functions of the digest
compute, and the micro-operations walk that loop. Also what this says of the high halves of BLK (spec/42_compression.md R174). -/

namespace Sys2Proof.Proofs

open Sys2Proof.Machine Sys2Proof.Safety

/-! ## The registers and the pure functions -/

theorem expand_length {w : Nat} (a : Algo) (blk : Vector (BitVec w) 16) (hn : 16 ≤ a.n) : (expand a blk).length = a.n := by
  rw [expand_eq_scheduleUpTo, scheduleUpTo_length _ _ hn]

/-- COMPRESS reads from W what EXPAND has written there (42 R174, R181). -/
theorem scheduleOf_expandRegs (tag : VariantTag) (blk : Vector Reg64 16) :
    scheduleOf tag (expandRegs tag blk) = expand (tagAlgo tag) (truncFile (tagW tag) blk) := by
  have hlen := expand_length (tagAlgo tag) (truncFile (tagW tag) blk) (Nat.le_of_lt (lt_tagN tag))
  have hN := tagN_le tag
  have hlen' : (scheduleOf tag (expandRegs tag blk)).length = tagN tag := by simp [scheduleOf, hN]
  refine List.ext_getElem (hlen'.trans hlen.symm) (fun k hk hk' => ?_)
  have hkn : k < tagN tag := by rwa [hlen] at hk'
  simp [scheduleOf, expandRegs, hkn, hk', setWidth_setWidth_64 (tagW_le tag)]

/-- H after COMPRESS, as Words (42 R179, R181). -/
theorem truncFile_compressRegs (tag : VariantTag) (h : Vector Reg64 8) (w : Vector Reg64 80) :
    truncFile (tagW tag) (compressRegs tag h w) = compress (tagAlgo tag) (truncFile (tagW tag) h) (scheduleOf tag w) := by
  ext k hk : 1
  simp only [truncFile_getElem, compressRegs, Vector.getElem_ofFn, Fin.getElem_fin]
  split
  · exact setWidth_setWidth_64 (tagW_le tag) _
  · next hlt =>
    have hsw : ¬ k < (tagAlgo tag).sw := hlt
    simp [compress, hsw]

theorem truncFile_paddedRegs (tag : VariantTag) (m : List Byte) (j : Nat) :
    truncFile (tagW tag) (paddedRegs tag m j) = blockAt (padWords (tagW tag) m) j :=
  truncFile_zextFile (tagW_le tag) _

/-! ## The loop over the Blocks -/

/-- `hashLoop` after its first `j` Blocks. -/
def hashPrefix (m : List Byte) (s : State) (j : Nat) : State :=
  (List.range j).foldl (fun s' j => blockEffect { s' with blk := paddedRegs s.variant.tag m j }) { s with h := s.ivr }

theorem hashLoop_eq_hashPrefix (m : List Byte) (s : State) :
    hashLoop m s = hashPrefix m s (nblk (tagW s.variant.tag) m.length) := rfl

theorem hashPrefix_succ (m : List Byte) (s : State) (j : Nat) :
    hashPrefix m s (j + 1) = blockEffect { hashPrefix m s j with blk := paddedRegs s.variant.tag m j } := by
  simp [hashPrefix, List.range_succ]

/-- The loop writes H, BLK, W and V only. -/
theorem hashPrefix_frame (m : List Byte) (s : State) (j : Nat) :
    ∃ h blk w v, hashPrefix m s j = { s with h := h, blk := blk, w := w, v := v } := by
  induction j with
  | zero => exact ⟨_, _, _, _, rfl⟩
  | succ j ih =>
    obtain ⟨h, blk, w, v, ih⟩ := ih
    rw [hashPrefix_succ, ih]
    exact ⟨_, _, _, _, rfl⟩

theorem hashPrefix_variant (m : List Byte) (s : State) (j : Nat) : (hashPrefix m s j).variant = s.variant := by
  obtain ⟨h, blk, w, v, hframe⟩ := hashPrefix_frame m s j
  rw [hframe]

/-- H after `j` Blocks is the State after `j` Blocks (44 R240). -/
theorem truncFile_hashPrefix (m : List Byte) (s : State) (j : Nat) :
    truncFile (tagW s.variant.tag) (hashPrefix m s j).h =
      (List.range j).foldl (fun S j => compressBlock (tagAlgo s.variant.tag) S (blockAt (padWords (tagW s.variant.tag) m) j))
        (truncFile (tagW s.variant.tag) s.ivr) := by
  induction j with
  | zero => rfl
  | succ j ih =>
    rw [hashPrefix_succ, List.range_succ, List.foldl_append, ← ih]
    simp only [blockEffect, compressEffect, expandEffect, hashPrefix_variant, truncFile_compressRegs, scheduleOf_expandRegs,
      truncFile_paddedRegs]
    rfl

/-- The output after the loop is the digest of the message (44 R240). -/
theorem digestOfH_hashLoop (m : List Byte) (s : State) : digestOfH (hashLoop m s) = hashOf s m := by
  rw [hashLoop_eq_hashPrefix]
  simp only [digestOfH, outputOf, currentDlen]
  rw [hashPrefix_variant, truncFile_hashPrefix]
  rfl

/-! ## The micro-operations of HASH -/

/-- The sequencer at stage `st` and index `t` of Block `j`, the loop of HASH having taken `k` Blocks of the message (44 R242). -/
def hashAt (s : State) (k : Nat) (st : Stage) (j t : Nat) : State :=
  { hashPrefix (message s) s k with seq := { stage := st, j := BitVec.ofNat 32 j, t := BitVec.ofNat 7 t } }

theorem nblkView_eq {s : State} (hv : s.variant.valid = true) :
    nblkView s = nblk (tagW s.variant.tag) (message s).length := by
  simp [nblkView, hv]

theorem hashAt_frame (s : State) (k : Nat) (st : Stage) (j t : Nat) :
    nblkView (hashAt s k st j t) = nblkView s ∧ message (hashAt s k st j t) = message s ∧
      (hashAt s k st j t).variant = s.variant := by
  obtain ⟨h, blk, w, v, hframe⟩ := hashPrefix_frame (message s) s k
  rw [hashAt, hframe]
  exact ⟨rfl, rfl, rfl⟩

/-- uFETCH takes Block `j` of the message to BLK (44 R242). -/
theorem microOp_fetch {s : State} {j : Nat} (hj : j < 2 ^ 32) :
    microOp .hash (hashAt s j .uFETCH j 0) =
      { hashAt s j .uCOPY j 0 with blk := paddedRegs s.variant.tag (message s) j } := by
  obtain ⟨-, hmsg, hvar⟩ := hashAt_frame s j .uFETCH j 0
  have hseq : (hashAt s j .uFETCH j 0).seq.j.toNat = j := Nat.mod_eq_of_lt hj
  have hblk : paddedRegs (hashAt s j .uFETCH j 0).variant.tag (message (hashAt s j .uFETCH j 0))
      (hashAt s j .uFETCH j 0).seq.j.toNat = paddedRegs s.variant.tag (message s) j := by rw [hmsg, hvar, hseq]
  rw [← hblk]
  rfl

/-- The schedule, the rounds and the feedback of a Block are BLOCK's effect (42 R182, 44 R242). -/
theorem hash_block_reaches {s : State} (hs : s.seq.stage = .uCOPY) :
    Reaches .hash s (afterFeed .hash (seqTo .uFEED (tagN s.variant.tag) (blockEffect s))) :=
  copy_reaches_feed (by decide) hs

/-- After the feedback the sequencer goes to the next Block while there is one, and else to the output (44 R242). -/
theorem afterFeed_hashAt {s : State} {j : Nat} (hj : j < nblkView s) (t : Nat) :
    afterFeed .hash (hashAt s (j + 1) .uFEED j t) =
      hashAt s (j + 1) (if j + 1 < nblkView s then .uFETCH else .uOUT) (j + 1) 0 := by
  have hlt := nblkView_lt s
  obtain ⟨hview, -, -⟩ := hashAt_frame s (j + 1) .uFEED j t
  have hnext : (hashAt s (j + 1) .uFEED j t).seq.j + 1 = BitVec.ofNat 32 (j + 1) := by
    simp [hashAt, BitVec.ofNat_add]
  have hnat : (BitVec.ofNat 32 (j + 1)).toNat = j + 1 := Nat.mod_eq_of_lt (by omega)
  simp only [afterFeed, hnext, hnat, hview]
  split <;> rfl

/-- One Block of HASH, from its fetch to the choice after it. -/
theorem hashAt_block_reaches {s : State} {j : Nat} (hj : j < nblkView s) :
    Reaches .hash (hashAt s j .uFETCH j 0)
      (hashAt s (j + 1) (if j + 1 < nblkView s then .uFETCH else .uOUT) (j + 1) 0) := by
  have hlt := nblkView_lt s
  let copied : State := { hashAt s j .uCOPY j 0 with blk := paddedRegs s.variant.tag (message s) j }
  have hblock := hash_block_reaches (s := copied) rfl
  have hfed : seqTo .uFEED (tagN copied.variant.tag) (blockEffect copied) =
      hashAt s (j + 1) .uFEED j (tagN copied.variant.tag) := by
    rw [hashAt, hashPrefix_succ]
    rfl
  rw [hfed, afterFeed_hashAt hj] at hblock
  exact (Reaches.step (microOp_fetch (by omega))).trans hblock

/-- All the Blocks of HASH, the last one followed by the output (44 R242). -/
theorem hashAt_reaches_out {s : State} {j : Nat} (hj : j < nblkView s) :
    Reaches .hash (hashAt s j .uFETCH j 0) (hashAt s (nblkView s) .uOUT (nblkView s) 0) := by
  have hblock := hashAt_block_reaches hj
  by_cases hnext : j + 1 < nblkView s
  · rw [if_pos hnext] at hblock
    exact hblock.trans (hashAt_reaches_out hnext)
  · rw [if_neg hnext, show j + 1 = nblkView s by omega] at hblock
    exact hblock
termination_by nblkView s - j

/-- uOUT and uWIPE after all the Blocks leave what the whole effect of HASH leaves (44 R241, R242). -/
theorem hashAt_out_reaches {s : State} (hv : s.variant.valid = true) :
    Reaches .hash (hashAt s (nblkView s) .uOUT (nblkView s) 0) (finish (hashEffect s)) := by
  have hdigest : digestOfH (hashAt s (nblkView s) .uOUT (nblkView s) 0) = hashOf s (message s) := by
    rw [← digestOfH_hashLoop, hashLoop_eq_hashPrefix, ← nblkView_eq hv]
    rfl
  have hout : microOp .hash (hashAt s (nblkView s) .uOUT (nblkView s) 0) =
      seqTo .uWIPE 0 { hashAt s (nblkView s) .uOUT (nblkView s) 0 with dout := doutOf (hashOf s (message s)) } := by
    rw [← hdigest]
    rfl
  refine (Reaches.step hout).trans (.step ?_)
  obtain ⟨h, blk, w, v, hframe⟩ := hashPrefix_frame (message s) s (nblkView s)
  rw [hashAt, hframe]
  rfl

/-- Settles O57: uINIT, then every Block in order, then the output and the wipe. -/
theorem microOpsRefineHash : Obligations.MicroOpsRefineHash := by
  intro s a t hb hexec ha hdone
  obtain ⟨⟨-, hneeds, -⟩, rfl⟩ := exec_accepted hb hexec ha
  rw [exec_inFlight _ ha] at hdone
  cases hdone
  have hv : (accept (encode .hash) (startStage .hash) s).variant.valid = true := hneeds rfl
  have hpos : 0 < nblkView (accept (encode .hash) (startStage .hash) s) := by
    rw [nblkView_eq hv]
    exact Nat.succ_pos _
  have hinit : microOp .hash (accept (encode .hash) (startStage .hash) s) =
      hashAt (accept (encode .hash) (startStage .hash) s) 0 .uFETCH 0 0 := rfl
  exact (Reaches.step hinit).trans ((hashAt_reaches_out hpos).trans (hashAt_out_reaches hv))

/-! ## The high halves of BLK -/

/-- The datapath takes from a register its low Word, so equal low halves are equal Words in a 32-bit variant (10 R21). -/
theorem truncFile_congr {n w : Nat} {r r' : Vector Reg64 n} (hw : w = 32)
    (h : ∀ i : Fin n, r'[i].extractLsb' 0 32 = r[i].extractLsb' 0 32) : truncFile w r' = truncFile w r := by
  subst hw
  ext i hi : 1
  simpa [BitVec.setWidth_eq_extractLsb'] using h ⟨i, hi⟩

/-- EXPAND reads the Words of BLK only. -/
theorem expandRegs_congr {tag : VariantTag} {blk blk' : Vector Reg64 16}
    (h : truncFile (tagW tag) blk' = truncFile (tagW tag) blk) : expandRegs tag blk' = expandRegs tag blk := by
  simp only [expandRegs, h]

/-- Settles O32: W is the same schedule, and BLOCK compresses H with it. -/
theorem highHalvesOfBlkIgnored : Obligations.HighHalvesOfBlkIgnored := by
  intro s s' hb hw hs' hlow
  have hb' : s'.status.busy = true := by rw [hs']; exact hb
  have hexp : expandRegs s.variant.tag s'.blk = expandRegs s.variant.tag s.blk := expandRegs_congr (truncFile_congr hw hlow)
  have hW : (expandEffect s').w = (expandEffect s).w := by
    rw [hs']
    exact hexp
  have hH : (blockEffect s').h = (blockEffect s).h := by
    rw [hs']
    exact congrArg (compressRegs s.variant.tag s.h) hexp
  exact ⟨_, _, _, _, exec_inFlight .expand hb, exec_inFlight .expand hb', hW.symm, exec_inFlight .block hb,
    exec_inFlight .block hb', hH.symm, hW.symm⟩

end Sys2Proof.Proofs
end

section
/-! The data side of the host port (spec/20_memory.md R64 to R71): the registers and window bytes an address names, what an idle engine
reads and writes there, and what a busy one masks and drops. -/

namespace Sys2Proof.Proofs

open Sys2Proof.Machine Sys2Proof.Safety

/-! ## While a command is in flight -/

/-- A write that reaches any target but STATUS and IEN is dropped with E_BUSY (20 R71). -/
theorem hostWrite_dropped {s : State} {t : Target} (d : Word32) (bs : List Byte) (hb : s.status.busy = true)
    (hs : t ≠ .ctrl .status) (hi : t ≠ .ctrl .ien) :
    hostWrite s (some t) d bs = .next (withReply (.write .ok) (errorEntry .eBusy s)) := by
  simp [hostWrite, writeTarget, hs, hi, hb]

/-- Settles O36: both widths reach the one write rule of the port. -/
theorem busyWritesAreDropped : Obligations.BusyWritesAreDropped := by
  intro s a tgt hb hs hi
  constructor
  · intro d ht
    rw [perform, ht]
    exact hostWrite_dropped d _ hb hs hi
  · intro b ht
    rw [perform, ht]
    exact hostWrite_dropped _ _ hb hs hi

/-- No 1-byte read gives data while BUSY = 1 (20 R70). -/
theorem read1_inFlight {s : State} (t : Target) (hb : s.status.busy = true) : read1 s t = 0 := by
  cases t with
  | window sp a => simp [read1, hb]
  | _ => rfl

/-- Settles O37: the mask stands at each data target, and at no control register. -/
theorem busyReadsAreMasked : Obligations.BusyReadsAreMasked := by
  intro s a tgt hb
  constructor
  · intro ht
    rw [perform, ht, hostRead_some]
    cases tgt with
    | ctrl r => rfl
    | _ => simp [read4, hb]
  · intro ht
    rw [perform, ht, hostRead_some, read1_inFlight tgt hb]

/-- Settles O52: a host transaction changes only what the port owns. -/
theorem inputsConstantWhileBusy : Obligations.InputsConstantWhileBusy := by
  intro s t e hb hreset hpower hengine h
  obtain ⟨u, hu, hframe, hbusy⟩ := perform_inFlight ⟨hreset, hpower, hengine⟩ hb
  cases hu.symm.trans h
  exact ⟨hframe, hbusy.trans hb⟩

/-! ## Reads -/

/-- Settles O45: the step takes the event off, and `hostRead` writes the answer only. -/
theorem readsHaveNoSideEffect : Obligations.ReadsHaveNoSideEffect := by
  intro s a es hev
  have hread : ∃ o f, step s = hostRead (withEvents es s) o f := by
    rcases hev with hev | hev
    · exact ⟨_, read4, step_cons hev⟩
    · exact ⟨_, read1, step_cons hev⟩
  obtain ⟨o, f, hstep⟩ := hread
  obtain ⟨r, hr⟩ := hostRead_eq (withEvents es s) o f
  exact ⟨r, hstep.trans hr⟩

/-! ## Addresses of the data registers -/

/-- The offset of a half of element `i` of the word register file at `base`: the high half at the lower address (20 R65). -/
def halfOffset (base i : Nat) (low : Bool) : Nat := (if low then base + 4 else base) + 8 * i

theorem halfOffset_eq (base i : Nat) (low : Bool) : halfOffset base i low = base + 8 * i + 4 * low.toNat := by
  cases low
  · simp [halfOffset]
  · simp [halfOffset]
    omega

theorem halfOffset_index (base i : Nat) (low : Bool) : (halfOffset base i low - base) / 8 = i := by
  have hlow := low.toNat_lt
  rw [halfOffset_eq]
  omega

theorem halfOffset_bit {base : Nat} (hbase : base % 8 = 0) (i : Nat) (low : Bool) :
    (halfOffset base i low / 4 % 2 == 1) = low := by
  rw [halfOffset_eq, beq_eq_decide]
  cases low
  · exact decide_eq_false (by simp only [Bool.toNat_false]; omega)
  · exact decide_eq_true (by simp only [Bool.toNat_true]; omega)

theorem halfOffset_bounds (base i : Nat) (low : Bool) :
    base ≤ halfOffset base i low ∧ halfOffset base i low < base + 8 * (i + 1) ∧
      halfOffset base i low % 4 = base % 4 := by
  have hlow := low.toNat_lt
  rw [halfOffset_eq]
  omega

/-- The halves of H from 0x100 on, of BLK from 0x180 on, and of W from 0x200 on (10 R31, 20 R65). -/
theorem registerAt_hHalf (i : Fin 8) (low : Bool) : registerAt (halfOffset 0x100 i low) = some (.hHalf i low) := by
  have hbounds := halfOffset_bounds 0x100 i low
  rw [registerAt, if_neg (by omega), dif_pos (by omega)]
  simp only [halfOffset_index, halfOffset_bit]

theorem registerAt_blkHalf (i : Fin 16) (low : Bool) : registerAt (halfOffset 0x180 i low) = some (.blkHalf i low) := by
  have hbounds := halfOffset_bounds 0x180 i low
  rw [registerAt, if_neg (by omega), dif_neg (by omega), dif_neg (by omega), dif_pos (by omega)]
  simp only [halfOffset_index, halfOffset_bit]

theorem registerAt_wHalf (i : Fin 80) (low : Bool) : registerAt (halfOffset 0x200 i low) = some (.wHalf i low) := by
  have hbounds := halfOffset_bounds 0x200 i low
  rw [registerAt, if_neg (by omega), dif_neg (by omega), dif_neg (by omega), dif_neg (by omega), dif_pos (by omega)]
  simp only [halfOffset_index, halfOffset_bit]

/-- The words of DOUT from 0x140 on (10 R31, 20 R77). -/
theorem registerAt_doutWord (i : Fin 16) : registerAt (0x140 + 4 * i.val) = some (.doutWord i) := by
  rw [registerAt, if_neg (by omega), dif_neg (by omega), dif_pos (by omega)]
  simp only [Nat.add_sub_cancel_left, Nat.mul_div_cancel_left i.val (by decide : 0 < 4)]

theorem hostAddr_toNat {n : Nat} (hn : n < 2 ^ 25) : (BitVec.ofNat 25 n).toNat = n := by
  rw [BitVec.toNat_ofNat, Nat.mod_eq_of_lt hn]

/-- An aligned offset of the register block, as a host address (20 R62). -/
theorem target4_ofNat (p : Config.Params) {n : Nat} (h4 : n % 4 = 0) (hn : n < 0x1000) :
    target4 p (BitVec.ofNat 25 n) = registerAt n := by
  have htoNat : (BitVec.ofNat 25 n).toNat = n := hostAddr_toNat (by omega)
  rw [target4_register (by rwa [htoNat]) (by rwa [htoNat]), htoNat]

theorem target4_half (p : Config.Params) {base i n : Nat} (low : Bool) (hbase : base % 4 = 0) (hi : i < n)
    (hn : base + 8 * n ≤ 0x1000) :
    target4 p (BitVec.ofNat 25 (halfOffset base i low)) = registerAt (halfOffset base i low) := by
  have hbounds := halfOffset_bounds base i low
  exact target4_ofNat p (by omega) (by omega)

theorem target4_hHalf (p : Config.Params) (i : Fin 8) (low : Bool) :
    target4 p (BitVec.ofNat 25 (halfOffset 0x100 i low)) = some (.hHalf i low) :=
  (target4_half p low (by decide) i.isLt (by decide)).trans (registerAt_hHalf i low)

theorem target4_blkHalf (p : Config.Params) (i : Fin 16) (low : Bool) :
    target4 p (BitVec.ofNat 25 (halfOffset 0x180 i low)) = some (.blkHalf i low) :=
  (target4_half p low (by decide) i.isLt (by decide)).trans (registerAt_blkHalf i low)

theorem target4_wHalf (p : Config.Params) (i : Fin 80) (low : Bool) :
    target4 p (BitVec.ofNat 25 (halfOffset 0x200 i low)) = some (.wHalf i low) :=
  (target4_half p low (by decide) i.isLt (by decide)).trans (registerAt_wHalf i low)

theorem target4_doutWord (p : Config.Params) (i : Fin 16) :
    target4 p (BitVec.ofNat 25 (0x140 + 4 * i.val)) = some (.doutWord i) :=
  (target4_ofNat p (by omega) (by omega)).trans (registerAt_doutWord i)

/-! ## Addresses of the windows -/

/-- The host address of byte 0 of a memory (20 R62). -/
def windowBase : Space → Nat
  | .key => 0x1000
  | .msg => 0x1000000

/-- The two windows do not overlap, and end below 2^25 (20 R62, 00 R7). -/
theorem windowAt_windowBase {s : State} {sp : Space} {a size : Nat} (hp : s.params.legal) (hcap : a + size ≤ capOf s sp)
    (hsize : 0 < size) : windowAt s.params (windowBase sp + a) size = some (.window sp a) := by
  obtain ⟨-, -, -, -, -, hkey⟩ := hp
  cases sp with
  | key =>
    simp only [capOf] at hcap
    rw [windowBase, windowAt, if_pos (by omega), Nat.add_sub_cancel_left]
  | msg =>
    simp only [capOf] at hcap
    rw [windowBase, windowAt, if_neg (by omega), if_pos (by omega), Nat.add_sub_cancel_left]

theorem windowBase_bounds {s : State} {sp : Space} {a : Nat} (hp : s.params.legal) (ha : a < capOf s sp) :
    windowBase sp % 4 = 0 ∧ 0x1000 ≤ windowBase sp ∧ windowBase sp + a < 2 ^ 25 := by
  obtain ⟨-, -, hmsg, -, -, hkey⟩ := hp
  refine ⟨by cases sp <;> rfl, by cases sp <;> decide, ?_⟩
  cases sp <;> simp only [windowBase, capOf] at ha ⊢ <;> omega

/-- The capacities being multiples of 4, an aligned word that begins in a window ends in it. -/
theorem add_four_le_capOf {s : State} {sp : Space} {a : Nat} (hp : s.params.legal) (h4 : a % 4 = 0)
    (ha : a < capOf s sp) : a + 4 ≤ capOf s sp := by
  obtain ⟨hmsg, -, -, hkey, -, -⟩ := hp
  cases sp <;> simp only [capOf] at ha ⊢ <;> omega

theorem target4_window {s : State} {sp : Space} {a : Nat} (hp : s.params.legal) (h4 : a % 4 = 0) (ha : a < capOf s sp) :
    target4 s.params (BitVec.ofNat 25 (windowBase sp + a)) = some (.window sp a) := by
  obtain ⟨hbase4, hbase, hlt⟩ := windowBase_bounds hp ha
  have htoNat : (BitVec.ofNat 25 (windowBase sp + a)).toNat = windowBase sp + a := hostAddr_toNat hlt
  rw [target4, htoNat, if_neg (by omega), if_neg (by omega)]
  exact windowAt_windowBase hp (add_four_le_capOf hp h4 ha) (by decide)

theorem target1_window {s : State} {sp : Space} {a : Nat} (hp : s.params.legal) (ha : a < capOf s sp) :
    target1 s.params (BitVec.ofNat 25 (windowBase sp + a)) = some (.window sp a) := by
  obtain ⟨-, hbase, hlt⟩ := windowBase_bounds hp ha
  have htoNat : (BitVec.ofNat 25 (windowBase sp + a)).toNat = windowBase sp + a := hostAddr_toNat hlt
  rw [target1, htoNat, if_neg (by omega)]
  exact windowAt_windowBase hp ha (by decide)

/-! ## Words of four bytes -/

/-- The big-endian word of the four bytes of `f` from `a` on (20 R64, R77). -/
def wordAt (f : Nat → Byte) (a : Nat) : Word32 := packBytes (f a) (f (a + 1)) (f (a + 2)) (f (a + 3))

/-- Byte `k` of a word, the most significant first. -/
def wordByte (d : Word32) (k : Fin 4) : Byte := d.extractLsb' (24 - 8 * k.val) 8

theorem wordByte_wordAt (f : Nat → Byte) (a : Nat) (k : Fin 4) : wordByte (wordAt f a) k = f (a + k.val) := by
  unfold wordByte wordAt packBytes
  fin_cases k
  · exact BitVec.extractLsb'_append_eq_left
  · exact (BitVec.extractLsb'_append_eq_of_add_le (by decide)).trans BitVec.extractLsb'_append_eq_left
  · exact (BitVec.extractLsb'_append_eq_of_add_le (by decide)).trans
      ((BitVec.extractLsb'_append_eq_of_add_le (by decide)).trans BitVec.extractLsb'_append_eq_left)
  · exact (BitVec.extractLsb'_append_eq_of_add_le (by decide)).trans
      ((BitVec.extractLsb'_append_eq_of_add_le (by decide)).trans BitVec.extractLsb'_append_eq_right)

theorem unpackBytes_eq_ofFn (d : Word32) : unpackBytes d = List.ofFn (wordByte d) := rfl

/-- Byte `k` of DOUT, zero beyond its 64 bytes (10 R28). -/
def doutByte (D : Vector Byte 64) (k : Nat) : Byte := D.toList.getD k 0

theorem doutByte_of_lt (D : Vector Byte 64) {k : Nat} (hk : k < 64) : doutByte D k = D[k] := by
  simp [doutByte, hk]

theorem doutWord_eq_wordAt (D : Vector Byte 64) (i : Fin 16) : doutWord D i = wordAt (doutByte D) (4 * i.val) := by
  have hi := i.isLt
  rw [wordAt, doutByte_of_lt D (by omega), doutByte_of_lt D (by omega), doutByte_of_lt D (by omega),
    doutByte_of_lt D (by omega), doutWord]

/-! ## Reads of an idle engine -/

/-- A 4-byte read of a mapped address answers OK with what its target reads. -/
theorem perform_rd32 {s : State} {a : HostAddr} {t : Target} (h : target4 s.params a = some t) :
    perform (.rd32 a) s = .next (withReply (.read (read4 s t) .ok) s) := by
  rw [perform, h, hostRead_some]

theorem perform_rd8 {s : State} {a : HostAddr} {t : Target} (h : target1 s.params a = some t) :
    perform (.rd8 a) s = .next (withReply (.read (read1 s t) .ok) s) := by
  rw [perform, h, hostRead_some]

section Idle

variable {s : State} (hb : s.status.busy = false)
include hb

theorem read4_hHalf (i : Fin 8) (low : Bool) : read4 s (.hHalf i low) = halfOf s.h[i] low := by
  simp [read4, hb]

theorem read4_blkHalf (i : Fin 16) (low : Bool) : read4 s (.blkHalf i low) = halfOf s.blk[i] low := by
  simp [read4, hb]

theorem read4_wHalf (i : Fin 80) (low : Bool) : read4 s (.wHalf i low) = halfOf s.w[i] low := by
  simp [read4, hb]

theorem read4_doutWord (i : Fin 16) :
    read4 s (.doutWord i) = wordAt (doutByte s.dout) (4 * i.val) := by
  rw [← doutWord_eq_wordAt]
  simp [read4, hb]

theorem read4_window (sp : Space) (a : Nat) : read4 s (.window sp a) = wordAt (readByte s sp) a := by
  simp [read4, wordAt, hb]

theorem read1_window (sp : Space) (a : Nat) : read1 s (.window sp a) = (readByte s sp a).setWidth 32 := by
  simp [read1, hb]

end Idle

/-- Settles O41: each address names its register half, word or byte, and an idle engine reads it unmasked. -/
theorem dataRegistersRead : Obligations.DataRegistersRead := by
  refine ⟨fun s hb => ⟨fun i => ?_, fun i => ?_, fun i => ?_, fun i => ?_⟩, ?_⟩
  · have hread (low : Bool) := read4_hHalf hb i low ▸ perform_rd32 (target4_hHalf s.params i low)
    exact ⟨hread false, hread true⟩
  · have hread (low : Bool) := read4_blkHalf hb i low ▸ perform_rd32 (target4_blkHalf s.params i low)
    exact ⟨hread false, hread true⟩
  · have hread (low : Bool) := read4_wHalf hb i low ▸ perform_rd32 (target4_wHalf s.params i low)
    exact ⟨hread false, hread true⟩
  · have hread := read4_doutWord hb i ▸ perform_rd32 (target4_doutWord s.params i)
    exact ⟨wordAt (doutByte s.dout) (4 * i.val), hread, wordByte_wordAt _ _⟩
  · intro s sp a hp hb ha base
    refine ⟨fun h4 => ⟨wordAt (readByte s sp) a, ?_, wordByte_wordAt _ a⟩, ?_⟩
    · exact read4_window hb sp a ▸ perform_rd32 (target4_window hp h4 ha)
    · exact read1_window hb sp a ▸ perform_rd8 (target1_window hp ha)

/-! ## Writes to an idle engine -/

/-- A write to a window stores its bytes there (20 R64). -/
theorem hostWrite_window {s : State} (sp : Space) (a : Nat) (d : Word32) (bs : List Byte) (hb : s.status.busy = false) :
    hostWrite s (some (.window sp a)) d bs = .next (withReply (.write .ok) (memStore s sp a bs)) :=
  hostWrite_idle hb (by simp) (by simp) rfl

theorem perform_wr8_window {s : State} {sp : Space} {a : Nat} (hp : s.params.legal) (hb : s.status.busy = false)
    (ha : a < capOf s sp) (b : Byte) :
    perform (.wr8 (BitVec.ofNat 25 (windowBase sp + a)) b) s = .next (withReply (.write .ok) (memStore s sp a [b])) := by
  rw [perform, target1_window hp ha, hostWrite_window sp a _ _ hb]

theorem perform_wr32_window {s : State} {sp : Space} {a : Nat} (hp : s.params.legal) (hb : s.status.busy = false)
    (h4 : a % 4 = 0) (ha : a < capOf s sp) (d : Word32) :
    perform (.wr32 (BitVec.ofNat 25 (windowBase sp + a)) d) s =
      .next (withReply (.write .ok) (memStore s sp a (unpackBytes d))) := by
  rw [perform, target4_window hp h4 ha, hostWrite_window sp a _ _ hb]

/-- A store writes the memories only. -/
theorem memStore_frame (s : State) (sp : Space) (a : Nat) (bs : List Byte) :
    memStore s sp a bs = { s with msg := (memStore s sp a bs).msg, key := (memStore s sp a bs).key } := by
  cases sp <;> rfl

@[simp] theorem readByte_withReply (r : Reply) (s : State) (sp : Space) (a : Nat) :
    readByte (withReply r s) sp a = readByte s sp a :=
  readByte_congr (by cases sp <;> rfl) rfl

theorem unpackBytes_getElem (d : Word32) (k : Fin 4) : (unpackBytes d)[k.val]'k.isLt = wordByte d k := by
  fin_cases k <;> rfl

/-- Settles O42: the stored bytes are those of the word, and a store leaves every other byte. -/
theorem windowWriteIsBigEndian : Obligations.WindowWriteIsBigEndian := by
  intro s sp a hp hb base
  have hframe (bs : List Byte) := congrArg (withReply (.write .ok)) (memStore_frame s sp a bs)
  refine ⟨fun d h4 ha => ⟨_, perform_wr32_window hp hb h4 ha d, hframe _, fun k => ?_, fun sp' x hx => ?_⟩,
    fun b ha => ⟨_, perform_wr8_window hp hb ha b, hframe _, ?_, fun sp' x hx => ?_⟩⟩
  · rw [readByte_withReply, readByte_memStore_same (bs := unpackBytes d) k.isLt]
    exact unpackBytes_getElem d k
  · rw [readByte_withReply]
    exact readByte_memStore_other (bs := unpackBytes d) hx
  · rw [readByte_withReply]
    exact readByte_memStore_same (i := 0) (bs := [b]) Nat.one_pos
  · rw [readByte_withReply]
    refine readByte_memStore_other (hx.imp_right fun hne => ?_)
    simpa using Nat.lt_or_gt_of_ne hne

/-! ## Halves of BLK -/

theorem extract_eq_halfOf (x : Reg64) (low : Bool) : x.extractLsb' (if low = true then 0 else 32) 32 = halfOf x low := by
  cases low <;> rfl

theorem extract_eq_halfOf_not (x : Reg64) (low : Bool) :
    x.extractLsb' (if low = true then 32 else 0) 32 = halfOf x (!low) := by
  cases low <;> rfl

theorem halfOf_setHalf_same (x : Reg64) (low : Bool) (d : Word32) : halfOf (setHalf x low d) low = d := by
  cases low
  · exact BitVec.extractLsb'_append_eq_left
  · exact BitVec.extractLsb'_append_eq_right

theorem halfOf_setHalf_other (x : Reg64) (low : Bool) (d : Word32) : halfOf (setHalf x low d) (!low) = halfOf x (!low) := by
  cases low
  · exact BitVec.extractLsb'_append_eq_right
  · exact BitVec.extractLsb'_append_eq_left

/-- Settles O43: `setHalf` replaces one half, and the register file one element. -/
theorem blkHalfWrite : Obligations.BlkHalfWrite := by
  intro s i low d hb
  let blk := s.blk.set i (setHalf s.blk[i] low d)
  have hi : blk[i] = setHalf s.blk[i] low d := Vector.getElem_set_self _
  have hwrite : perform (.wr32 (BitVec.ofNat 25 (halfOffset 0x180 i low)) d) s =
      .next (withReply (.write .ok) { s with blk := blk }) := by
    rw [perform, target4_blkHalf]
    exact hostWrite_idle hb (by simp) (by simp) rfl
  refine ⟨_, hwrite, rfl, ?_, ?_, fun k hk => ?_⟩
  · rw [extract_eq_halfOf]
    exact (congrArg (halfOf · low) hi).trans (halfOf_setHalf_same _ _ _)
  · rw [extract_eq_halfOf_not, extract_eq_halfOf_not]
    exact (congrArg (halfOf · !low) hi).trans (halfOf_setHalf_other _ _ _)
  · exact Vector.getElem_set_ne i.isLt k.isLt (fun h => hk (Fin.ext h.symm))

end Sys2Proof.Proofs
end

section
/-! Host scripts on the machine (spec/30_encoding.md R99, R100): what LOADMSG, LOADKEY, DO with its WAIT, and GETDIGEST do, and the two
scripts that hash and MAC a loaded message (spec/44_hash_hmac.md R241, R249). -/

namespace Sys2Proof.Proofs

open Sys2Proof.Machine Sys2Proof.Safety

/-! ## Lines of a script -/

theorem act_of_perform {e : Event} {s t : State} (h : perform e s = .next t) : act e s = some t := by
  rw [act_eq_perform, h, nextState]

theorem silent_some (t : State) : silent (some t) = some (t, []) := rfl

theorem runScript_cons {a : HostAction} {as : List HostAction} {s t : State} {vs : List HostValue}
    (h : runAction a s = some (t, vs)) :
    runScript (a :: as) s = (runScript as t).map (fun q => (q.1, vs ++ q.2)) := by
  rw [runScript, h, Option.bind_some]

/-- A line that gives the host no value hands its state to the rest of the script. -/
theorem runScript_silent {a : HostAction} {as : List HostAction} {s t : State} (h : runAction a s = some (t, [])) :
    runScript (a :: as) s = runScript as t := by
  rw [runScript_cons h]
  exact Option.map_id'

/-! ## Loading a memory -/

/-- Two stores in a row are one store of both byte strings, the port's answer between them standing. -/
theorem memStore_cons (s : State) (sp : Space) (a : Nat) (b : Byte) (bs : List Byte) (r : Reply) :
    memStore (withReply r (memStore s sp a [b])) sp (a + 1) bs = withReply r (memStore s sp a (b :: bs)) := by
  cases sp <;> rfl

/-- The byte writes of a load that ends inside the window store the bytes in order (30 R100, 20 R64). -/
theorem actAll_scriptBytes {s : State} {sp : Space} {a : Nat} (bs : List Byte) (hp : s.params.legal)
    (hb : s.status.busy = false) (hcap : a + bs.length ≤ capOf s sp) :
    ∃ r, actAll (scriptBytes (windowBase sp + a) bs) s = some (withReply r (memStore s sp a bs)) := by
  induction bs generalizing s a with
  | nil => exact ⟨s.reply, by cases sp <;> rfl⟩
  | cons b bs ih =>
    rw [List.length_cons] at hcap
    let t := withReply (.write .ok) (memStore s sp a [b])
    have hact : act (.wr8 (BitVec.ofNat 25 (windowBase sp + a)) b) s = some t :=
      act_of_perform (perform_wr8_window hp hb (by omega) b)
    have hparams : t.params = s.params := memStore_params ..
    have hcap' : capOf t sp = capOf s sp := by cases sp <;> rfl
    obtain ⟨r, hrest⟩ := ih (s := t) (a := a + 1) (hparams ▸ hp) (by simpa [t] using hb) (by omega)
    rw [memStore_cons] at hrest
    refine ⟨r, ?_⟩
    rw [scriptBytes, actAll, hact, Option.bind_some]
    exact hrest

/-- The state with message `m` in MSG from byte 0 on, and its length in MSG_LEN. -/
def msgLoaded (m : List Byte) (s : State) : State := { memStore s .msg 0 m with msgLen := BitVec.ofNat 32 m.length }

/-- The state with key `k` in KEY from byte 0 on, and its length in KEY_LEN. -/
def keyLoaded (k : List Byte) (s : State) : State := { memStore s .key 0 k with keyLen := BitVec.ofNat 32 k.length }

/-- `t` has the status, the variant and the parameters of `s`: what a load of a memory leaves. -/
structure SameSetup (s t : State) : Prop where
  status : t.status = s.status
  ien : t.ien = s.ien
  variant : t.variant = s.variant
  ivr : t.ivr = s.ivr
  params : t.params = s.params

theorem SameSetup.trans {s t u : State} (hst : SameSetup s t) (htu : SameSetup t u) : SameSetup s u where
  status := htu.status.trans hst.status
  ien := htu.ien.trans hst.ien
  variant := htu.variant.trans hst.variant
  ivr := htu.ivr.trans hst.ivr
  params := htu.params.trans hst.params

theorem sameSetup_withReply (r : Reply) (s : State) : SameSetup s (withReply r s) := ⟨rfl, rfl, rfl, rfl, rfl⟩

theorem sameSetup_msgLoaded (m : List Byte) (s : State) : SameSetup s (msgLoaded m s) := ⟨rfl, rfl, rfl, rfl, rfl⟩

theorem sameSetup_keyLoaded (k : List Byte) (s : State) : SameSetup s (keyLoaded k s) := ⟨rfl, rfl, rfl, rfl, rfl⟩

@[simp] theorem message_withReply (r : Reply) (s : State) : message (withReply r s) = message s :=
  message_congr rfl rfl rfl

@[simp] theorem keyBytes_withReply (r : Reply) (s : State) : keyBytes (withReply r s) = keyBytes s :=
  keyBytes_congr rfl rfl rfl

/-- The load of a message leaves KEY and KEY_LEN. -/
@[simp] theorem keyBytes_msgLoaded (m : List Byte) (s : State) : keyBytes (msgLoaded m s) = keyBytes s :=
  keyBytes_congr rfl rfl rfl

theorem act_wr32_msgLen {s : State} (hb : s.status.busy = false) (d : Word32) :
    act (.wr32 0x014 d) s = some (withReply (.write .ok) { s with msgLen := d }) := by
  refine act_of_perform ?_
  rw [perform, target4_msgLen]
  exact hostWrite_idle hb (by decide) (by decide) rfl

theorem act_wr32_keyLen {s : State} (hb : s.status.busy = false) (d : Word32) :
    act (.wr32 0x018 d) s = some (withReply (.write .ok) { s with keyLen := d }) := by
  refine act_of_perform ?_
  rw [perform, target4_keyLen]
  exact hostWrite_idle hb (by decide) (by decide) rfl

/-- A list of actions, then one more. -/
theorem actAll_concat {es : List Event} {e : Event} {s t u : State} (hes : actAll es s = some t) (he : act e t = some u) :
    actAll (es ++ [e]) s = some u := by
  rw [actAll_append, hes, Option.bind_some, actAll, he, Option.bind_some, actAll]

theorem memRead_memStore (s : State) (sp : Space) (bs : List Byte) : memRead (memStore s sp 0 bs) sp 0 bs.length = bs := by
  refine List.ext_getElem (memRead_length ..) (fun i hi hi' => ?_)
  simp only [memRead, List.getElem_map, List.getElem_range]
  exact readByte_memStore_same hi'

/-- A loaded message is the message the engine reads. -/
theorem message_msgLoaded {m : List Byte} (s : State) (hm : m.length < 2 ^ 32) : message (msgLoaded m s) = m := by
  have hlen : (msgLoaded m s).msgLen.toNat = m.length := by
    rw [msgLoaded, BitVec.toNat_ofNat, Nat.mod_eq_of_lt hm]
  rw [message, hlen]
  exact memRead_memStore s .msg m

theorem keyBytes_keyLoaded {k : List Byte} (s : State) (hk : k.length < 2 ^ 32) : keyBytes (keyLoaded k s) = k := by
  have hlen : (keyLoaded k s).keyLen.toNat = k.length := by
    rw [keyLoaded, BitVec.toNat_ofNat, Nat.mod_eq_of_lt hk]
  rw [keyBytes, hlen]
  exact memRead_memStore s .key k

theorem legal_caps {p : Config.Params} (hp : p.legal) : p.msgCap < 2 ^ 32 ∧ p.keyCap < 2 ^ 32 := by
  obtain ⟨-, -, hmsg, -, -, hkey⟩ := hp
  omega

/-- LOADMSG of a message that fits: the engine reads that message from then on (30 R100). -/
theorem runAction_loadMsg {s : State} {m : List Byte} (hp : s.params.legal) (hb : s.status.busy = false)
    (hm : m.length ≤ s.params.msgCap) :
    ∃ u, runAction (.loadMsg m) s = some (u, []) ∧ SameSetup s u ∧ message u = m ∧ keyBytes u = keyBytes s := by
  obtain ⟨r, hbytes⟩ := actAll_scriptBytes (sp := .msg) (a := 0) m hp hb (by rwa [Nat.zero_add])
  have hall : actAll (scriptLoadMsg m) s = some (withReply (.write .ok) (msgLoaded m s)) :=
    actAll_concat hbytes (act_wr32_msgLen (s := withReply r (memStore s .msg 0 m)) hb _)
  obtain ⟨hcap, -⟩ := legal_caps hp
  refine ⟨_, by rw [runAction, hall, silent_some], (sameSetup_msgLoaded m s).trans (sameSetup_withReply _ _), ?_, ?_⟩
  · rw [message_withReply, message_msgLoaded s (by omega)]
  · rw [keyBytes_withReply, keyBytes_msgLoaded]

/-- LOADKEY of a key that fits: the engine reads that key from then on (30 R100). -/
theorem runAction_loadKey {s : State} {k : List Byte} (hp : s.params.legal) (hb : s.status.busy = false)
    (hk : k.length ≤ s.params.keyCap) :
    ∃ u, runAction (.loadKey k) s = some (u, []) ∧ SameSetup s u ∧ keyBytes u = k := by
  obtain ⟨r, hbytes⟩ := actAll_scriptBytes (sp := .key) (a := 0) k hp hb (by rwa [Nat.zero_add])
  have hall : actAll (scriptLoadKey k) s = some (withReply (.write .ok) (keyLoaded k s)) :=
    actAll_concat hbytes (act_wr32_keyLen (s := withReply r (memStore s .key 0 k)) hb _)
  obtain ⟨-, hcap⟩ := legal_caps hp
  refine ⟨_, by rw [runAction, hall, silent_some], (sameSetup_keyLoaded k s).trans (sameSetup_withReply _ _), ?_⟩
  rw [keyBytes_withReply, keyBytes_keyLoaded s (by omega)]

/-! ## DO -/

/-- What command `i` leaves of an idle engine that accepts it, once it has completed (00 R9). -/
def completed (i : Instr) (s : State) : State := finish (effectOf i (accept (encode i) (startStage i) s))

theorem completed_status (i : Instr) (s : State) :
    (completed i s).status = { s.status with busy := false, done := true } := by
  rw [completed, finish_status, effectOf_status, accept_status]

theorem act_scriptCommand {i : Instr} {s : State} (hd : decode (encode i) = .ok i) (hb : s.status.busy = false)
    (he : s.status.err = false) (hacc : Acceptable i s) :
    act (scriptCommand i) s = some (withReply (.write .ok) (accept (encode i) (startStage i) s)) := by
  have hissue : issue (encode i) s = .next (accept (encode i) (startStage i) s) := by
    simp only [issue, he, hd, Bool.false_eq_true, if_false]
    exact exec_of_acceptable hb he hacc
  refine act_of_perform ?_
  rw [scriptCommand, perform, target4_cmd]
  exact hostWrite_idle hb (by decide) (by decide) hissue

theorem completed_hash_dout (s : State) : (completed .hash s).dout = doutOf (hashOf s (message s)) := rfl
theorem completed_hash_h (s : State) : (completed .hash s).h = s.ivr := rfl
theorem completed_hash_ien (s : State) : (completed .hash s).ien = s.ien := rfl

theorem completed_hmac_dout (s : State) :
    (completed .hmac s).dout = doutOf (hmacOf s (keyBytes s) (message s)) := rfl
theorem completed_hmac_h (s : State) : (completed .hmac s).h = s.ivr := rfl
theorem completed_hmac_k0 (s : State) : (completed .hmac s).k0 = zeros 128 8 := rfl

/-- Completion neither reads nor writes the port's answer. -/
theorem finish_effectOf_withReply (i : Instr) (r : Reply) (s : State) :
    finish (effectOf i (withReply r s)) = withReply r (finish (effectOf i s)) := by
  cases i <;> rfl

/-- A WAIT with a turn of the engine among its polls ends with the command in flight complete, and has read its STATUS (30 R100). -/
theorem waitRun_inFlight {s : State} {i : Instr} {turns : List Bool} (hb : s.status.busy = true) (hd : decode s.cmd = .ok i)
    (ht : true ∈ turns) :
    waitRun turns s = some (withReply (.read (statusWord (finish (effectOf i s)).status) .ok) (finish (effectOf i s))) := by
  induction turns generalizing s with
  | nil => contradiction
  | cons turn turns ih =>
    cases turn with
    | false =>
      have hrest := ih (s := withReply (.read (statusWord s.status) .ok) s) hb hd (by simpa using ht)
      rw [finish_effectOf_withReply] at hrest
      rw [waitRun, pollThen_busy _ hb]
      exact hrest
    | true =>
      rw [waitRun, act_engine_inFlight hb hd, Option.bind_some, pollThen_idle _ rfl]

/-- DO of an acceptable command ends with the command complete, wherever the turn of the engine falls among the polls. -/
theorem runAction_doCommand {i : Instr} {s : State} {turns : List Bool} (hd : decode (encode i) = .ok i)
    (hb : s.status.busy = false) (he : s.status.err = false) (hacc : Acceptable i s) (ht : true ∈ turns) :
    ∃ r, runAction (.doCommand i turns) s = some (withReply r (completed i s), []) := by
  have hwait := waitRun_inFlight (s := withReply (.write .ok) (accept (encode i) (startStage i) s)) rfl hd ht
  rw [finish_effectOf_withReply] at hwait
  exact ⟨_, by rw [runAction, act_scriptCommand hd hb he hacc, Option.bind_some, hwait]; rfl⟩

/-! ## GETDIGEST -/

theorem act_rd32_doutWord {s : State} (hb : s.status.busy = false) {i : Nat} (hi : i < 16) :
    act (.rd32 (BitVec.ofNat 25 (0x140 + 4 * i))) s =
      some (withReply (.read (wordAt (doutByte s.dout) (4 * i)) .ok) s) :=
  act_of_perform (read4_doutWord hb ⟨i, hi⟩ ▸ perform_rd32 (target4_doutWord s.params ⟨i, hi⟩))

/-- Reads of words of DOUT give those words, and change the port's answer only. -/
theorem readWords_dout {s : State} (hb : s.status.busy = false) {is : List Nat} (his : ∀ i ∈ is, i < 16) :
    ∃ r, readWords (is.map (fun i => BitVec.ofNat 25 (0x140 + 4 * i))) s =
      some (withReply r s, is.map (fun i => wordAt (doutByte s.dout) (4 * i))) := by
  induction is generalizing s with
  | nil => exact ⟨s.reply, rfl⟩
  | cons i is ih =>
    obtain ⟨hi, his⟩ := List.forall_mem_cons.mp his
    obtain ⟨r, hrest⟩ := ih (s := withReply (.read (wordAt (doutByte s.dout) (4 * i)) .ok) s) hb his
    refine ⟨r, ?_⟩
    rw [List.map_cons, readWords, act_rd32_doutWord hb hi, Option.bind_some, hrest]
    rfl

theorem unpackBytes_wordAt (f : Nat → Byte) (a : Nat) : unpackBytes (wordAt f a) = [f a, f (a + 1), f (a + 2), f (a + 3)] := by
  have hbyte := wordByte_wordAt f a
  rw [unpackBytes_eq_ofFn]
  simp [List.ofFn_succ, hbyte]

/-- The bytes of consecutive words are consecutive bytes. -/
theorem flatMap_unpackBytes_wordAt (f : Nat → Byte) (n : Nat) :
    ((List.range n).map (fun i => wordAt f (4 * i))).flatMap unpackBytes = (List.range (4 * n)).map f := by
  induction n with
  | zero => rfl
  | succ n ih =>
    rw [List.range_succ, List.map_append, List.flatMap_append, ih, Nat.mul_succ]
    simp [List.range_succ, unpackBytes_wordAt]

/-- GETDIGEST of an idle engine gives the first DLEN bytes of DOUT, and changes the port's answer only (30 R100, 20 R77). -/
theorem getDigest_idle {s : State} (hb : s.status.busy = false) (hdlen : dlenView s ≤ 64) :
    ∃ r, getDigest s = some (withReply r s, (List.range (dlenView s)).map (doutByte s.dout)) := by
  obtain ⟨r, hwords⟩ := readWords_dout hb (is := List.range ((dlenView s + 3) / 4))
    (fun i hi => by rw [List.mem_range] at hi; omega)
  refine ⟨r, ?_⟩
  rw [getDigest, digestAddrs, hwords, Option.map_some, flatMap_unpackBytes_wordAt, ← List.map_take, List.take_range,
    Nat.min_eq_left (by omega)]

/-- DOUT gives back a digest that fits in it. -/
theorem map_doutByte_doutOf {d : List Byte} (hd : d.length ≤ 64) : (List.range d.length).map (doutByte (doutOf d)) = d := by
  refine List.ext_getElem (by simp) (fun i hi hi' => ?_)
  rw [List.getElem_map, List.getElem_range, doutByte_of_lt _ (by omega), doutOf_getElem]
  exact List.getElem_eq_getD 0 |>.symm

/-! ## The length of a digest -/

/-- Under any variant SETVAR can construct the digest is no longer than the Words it is taken from, nor than DOUT (43 R201, R205). -/
theorem digestLen_le {tag : VariantTag} {t : BitVec 10} (h : tag = .sha512t → tLegal t = true) :
    digestLen tag t.toNat ≤ min (tagSw tag) 8 * wordBytes (tagW tag) ∧ digestLen tag t.toNat ≤ 64 := by
  cases tag with
  | sha512t =>
    have ht := h rfl
    simp only [tLegal, Bool.and_eq_true, decide_eq_true_eq] at ht
    simp only [digestLen, tagSw, tagW, wordBytes]
    omega
  | _ => simp [digestLen, tagSw, tagW, wordBytes]

theorem hashBytes_length {tag : VariantTag} {t : BitVec 10} (h : tag = .sha512t → tLegal t = true)
    (iv : Vector (BitVec (tagW tag)) 8) (m : List Byte) :
    (hashBytes (tagAlgo tag) iv (digestLen tag t.toNat) m).length = digestLen tag t.toNat := by
  rw [hashBytes, outputBytes_length]
  exact Nat.min_eq_left (digestLen_le h).1

/-! ## The two scripts -/

/-- The end of both scripts: a command that leaves digest `d` in DOUT, then GETDIGEST. -/
theorem runScript_do_getDigest {i : Instr} {s : State} {turns : List Bool} {d : List Byte} (hd : decode (encode i) = .ok i)
    (hb : s.status.busy = false) (he : s.status.err = false) (hacc : Acceptable i s) (ht : true ∈ turns)
    (hdout : (completed i s).dout = doutOf d) (hlen : d.length = dlenView (completed i s)) (h64 : d.length ≤ 64) :
    ∃ r, runScript [.doCommand i turns, .getDigest] s = some (withReply r (completed i s), [.digest d]) := by
  obtain ⟨r, hdo⟩ := runAction_doCommand hd hb he hacc ht
  obtain ⟨r', hget⟩ := getDigest_idle (s := withReply r (completed i s)) rfl (hlen ▸ h64)
  have hdigest : (List.range (dlenView (completed i s))).map (doutByte (completed i s).dout) = d := by
    rw [hdout, ← hlen, map_doutByte_doutOf h64]
  refine ⟨r', ?_⟩
  rw [runScript_silent hdo, runScript, runAction, hget]
  exact congrArg (fun d => some (withReply r' (completed i s), [HostValue.digest d])) hdigest

theorem dlenView_of_valid {s : State} (hv : s.variant.valid = true) :
    dlenView s = digestLen s.variant.tag s.variant.t.toNat := by
  rw [dlenView, if_pos hv, currentDlen]

theorem acceptable_hash {s : State} (hv : s.variant.valid = true) (hm : s.msgLen.toNat ≤ s.params.msgCap) :
    Acceptable .hash s :=
  ⟨rfl, fun _ => hv, fun _ => hm, by simp, by simp⟩

theorem acceptable_hmac {s : State} (hv : s.variant.valid = true) (hm : s.msgLen.toNat ≤ s.params.msgCap)
    (hk : s.keyLen.toNat ≤ s.params.keyCap) : Acceptable .hmac s :=
  ⟨rfl, fun _ => hv, fun _ => hm, fun _ => hk, by simp⟩

/-- An idle engine without error, with a variant that SETVAR can construct. -/
structure Ready (s : State) : Prop where
  idle : s.status.busy = false
  noError : s.status.err = false
  valid : s.variant.valid = true
  constructible : s.variant.tag = .sha512t → tLegal s.variant.t = true

theorem Ready.of_sameSetup {s t : State} (h : Ready s) (hst : SameSetup s t) : Ready t where
  idle := by rw [hst.status, h.idle]
  noError := by rw [hst.status, h.noError]
  valid := by rw [hst.variant, h.valid]
  constructible := by rw [hst.variant]; exact h.constructible

/-- DO HASH and GETDIGEST give the digest of the message in MSG (44 R241). -/
theorem runScript_hash {s : State} {turns : List Bool} (h : Ready s) (hm : s.msgLen.toNat ≤ s.params.msgCap)
    (ht : true ∈ turns) :
    ∃ r, runScript [.doCommand .hash turns, .getDigest] s =
      some (withReply r (completed .hash s), [.digest (hashOf s (message s))]) := by
  have hlen : (hashOf s (message s)).length = digestLen s.variant.tag s.variant.t.toNat :=
    hashBytes_length h.constructible _ _
  have hdlen : dlenView (completed .hash s) = digestLen s.variant.tag s.variant.t.toNat := dlenView_of_valid h.valid
  exact runScript_do_getDigest (by decide) h.idle h.noError (acceptable_hash h.valid hm) ht (completed_hash_dout s)
    (hlen.trans hdlen.symm) (hlen ▸ (digestLen_le h.constructible).2)

/-- DO HMAC and GETDIGEST give the MAC of the key in KEY and the message in MSG (44 R249). -/
theorem runScript_hmac {s : State} {turns : List Bool} (h : Ready s) (hm : s.msgLen.toNat ≤ s.params.msgCap)
    (hk : s.keyLen.toNat ≤ s.params.keyCap) (ht : true ∈ turns) :
    ∃ r, runScript [.doCommand .hmac turns, .getDigest] s =
      some (withReply r (completed .hmac s), [.digest (hmacOf s (keyBytes s) (message s))]) := by
  have hlen : (hmacOf s (keyBytes s) (message s)).length = digestLen s.variant.tag s.variant.t.toNat :=
    hashBytes_length h.constructible _ _
  have hdlen : dlenView (completed .hmac s) = digestLen s.variant.tag s.variant.t.toNat := dlenView_of_valid h.valid
  exact runScript_do_getDigest (by decide) h.idle h.noError (acceptable_hmac h.valid hm hk) ht (completed_hmac_dout s)
    (hlen.trans hdlen.symm) (hlen ▸ (digestLen_le h.constructible).2)

theorem hashOf_congr {s t : State} (hvar : t.variant = s.variant) (hiv : t.ivr = s.ivr) (m : List Byte) :
    hashOf t m = hashOf s m := by
  rw [hashOf, hashOf, currentDlen, currentDlen, hvar, hiv]

theorem hmacOf_congr {s t : State} (hvar : t.variant = s.variant) (hiv : t.ivr = s.ivr) (k m : List Byte) :
    hmacOf t k m = hmacOf s k m := by
  rw [hmacOf, hmacOf, currentDlen, currentDlen, hvar, hiv]

/-- Settles O54: the loaded bytes are the message the engine reads, and GETDIGEST reads back the DOUT that HASH leaves. -/
theorem loadedMessageIsHashed : Obligations.LoadedMessageIsHashed := by
  intro s m turns hp hb he hv htag hm ht
  obtain ⟨u, hload, hsetup, hmsg, -⟩ := runAction_loadMsg hp hb hm
  have hready : Ready u := .of_sameSetup ⟨hb, he, hv, htag⟩ hsetup
  obtain ⟨hstatus, hien, hvar, hivr, hparams⟩ := hsetup
  obtain ⟨r, hrun⟩ := runScript_hash hready (by rwa [← message_length, hmsg, hparams]) ht
  rw [hmsg, hashOf_congr hvar hivr] at hrun
  refine ⟨_, (runScript_silent hload).trans hrun, ?_, ?_, ?_, ?_⟩
  · rw [withReply_dout, completed_hash_dout, hmsg, hashOf_congr hvar hivr]
  · rw [withReply_h, completed_hash_h, hivr]
  · rw [withReply_status, completed_status, hstatus]
  · simp [irq, completed_status, completed_hash_ien, hstatus, hien, he]

/-- Settles O55: as for HASH, the load of the message leaving KEY and KEY_LEN as the load of the key has set them. -/
theorem loadedKeyAndMessageAreMaced : Obligations.LoadedKeyAndMessageAreMaced := by
  intro s k m turns hp hb he hv htag hm hk ht
  obtain ⟨v, hloadKey, hsv, hkey⟩ := runAction_loadKey hp hb hk
  have hreadyv : Ready v := .of_sameSetup ⟨hb, he, hv, htag⟩ hsv
  obtain ⟨u, hloadMsg, hvu, hmsg, hkeep⟩ := runAction_loadMsg (s := v) (m := m) (by rwa [hsv.params]) hreadyv.idle
    (by rwa [hsv.params])
  have hready : Ready u := hreadyv.of_sameSetup hvu
  obtain ⟨hstatus, -, hvar, hivr, hparams⟩ := hsv.trans hvu
  rw [hkey] at hkeep
  obtain ⟨r, hrun⟩ := runScript_hmac hready (by rwa [← message_length, hmsg, hparams])
    (by rwa [← keyBytes_length, hkeep, hparams]) ht
  rw [hmsg, hkeep, hmacOf_congr hvar hivr] at hrun
  refine ⟨_, ((runScript_silent hloadKey).trans (runScript_silent hloadMsg)).trans hrun, ?_, ?_, ?_, ?_⟩
  · rw [withReply_dout, completed_hmac_dout, hmsg, hkeep, hmacOf_congr hvar hivr]
  · rw [withReply_h, completed_hmac_h, hivr]
  · rw [withReply_k0, completed_hmac_k0, zeros]
  · rw [withReply_status, completed_status, hstatus]

end Sys2Proof.Proofs
end

section
/-! The command words (spec/30_encoding.md R90 to R97): the decoder and the encoder are inverse to each other on the well-formed commands,
a write to CMD decides in the order of R95, a step runs the decoded command, and WAIT ends with it complete (R100). -/

namespace Sys2Proof.Proofs

open Sys2Proof.Machine Sys2Proof.Safety
open Sys2Proof.Laws.EncodeFields (opcode)

/-! ## The fields of a word -/

theorem fieldOp_toNat (c : Word32) : (fieldOp c).toNat = c.toNat / 2 ^ 28 := by
  rw [fieldOp, BitVec.extractLsb'_toNat, Nat.shiftRight_eq_div_pow]
  have := c.isLt
  omega

theorem fieldTag_toNat (c : Word32) : (fieldTag c).toNat = c.toNat / 2 ^ 24 % 16 := by
  rw [fieldTag, BitVec.extractLsb'_toNat, Nat.shiftRight_eq_div_pow]

theorem fieldT_toNat (c : Word32) : (fieldT c).toNat = c.toNat % 1024 := by
  rw [fieldT, BitVec.extractLsb'_toNat, Nat.shiftRight_eq_div_pow, Nat.pow_zero, Nat.div_one]

/-- The reserved bits 27:0 of a format N word (30 R90). -/
theorem reservedN_eq_zero_iff (c : Word32) : c.extractLsb' 0 28 = 0 ↔ c.toNat % 2 ^ 28 = 0 := by
  rw [← BitVec.toNat_inj, BitVec.extractLsb'_toNat, Nat.shiftRight_eq_div_pow, Nat.pow_zero, Nat.div_one]
  rfl

/-- The reserved bits 23:10 of a format V word (30 R90). -/
theorem reservedV_eq_zero_iff (c : Word32) : c.extractLsb' 10 14 = 0 ↔ c.toNat / 1024 % 2 ^ 14 = 0 := by
  rw [← BitVec.toNat_inj, BitVec.extractLsb'_toNat, Nat.shiftRight_eq_div_pow]
  rfl

theorem fieldT_eq_zero_iff (c : Word32) : fieldT c = 0 ↔ c.toNat % 1024 = 0 := by
  rw [← BitVec.toNat_inj, fieldT_toNat]
  rfl

theorem word_eq_fieldsN (c : Word32) : fieldOp c ++ c.extractLsb' 0 28 = c := BitVec.extractLsb'_append_extractLsb'

theorem word_eq_fieldsV (c : Word32) : fieldOp c ++ (fieldTag c ++ (c.extractLsb' 10 14 ++ fieldT c)) = c := by
  have h24 : c.extractLsb' 10 14 ++ fieldT c = c.extractLsb' 0 24 := by
    rw [← BitVec.extractLsb'_append_extractLsb' (w := 14) (len := 10) (x := c.extractLsb' 0 24),
      BitVec.extractLsb'_extractLsb'_of_le (by decide), BitVec.extractLsb'_extractLsb'_of_le (by decide)]
    rfl
  have h28 : fieldTag c ++ c.extractLsb' 0 24 = c.extractLsb' 0 28 := by
    rw [← BitVec.extractLsb'_append_extractLsb' (w := 4) (len := 24) (x := c.extractLsb' 0 28),
      BitVec.extractLsb'_extractLsb'_of_le (by decide), BitVec.extractLsb'_extractLsb'_of_le (by decide)]
    rfl
  rw [h24, h28, word_eq_fieldsN]

theorem fieldOp_encode (i : Instr) : fieldOp (encode i) = opcode i := by
  cases i with
  | setvar tag t => exact Laws.EncodeFields.setvar tag t
  | _ => rfl

/-- A tag names the variant whose tag it is (30 R96). -/
theorem ofBits_eq_some_iff (b : BitVec 4) (tag : VariantTag) : VariantTag.ofBits b = some tag ↔ tag.bits = b := by
  constructor
  · cases tag <;> revert b <;> decide
  · rintro rfl
    exact ofBits_bits tag

/-- Tags 8 to 15 are reserved (30 R96). -/
theorem ofBits_eq_none_iff (b : BitVec 4) : VariantTag.ofBits b = none ↔ 8 ≤ b.toNat := by
  revert b
  decide

/-! ## The decoder by format -/

/-- The commands of format N: all but SETVAR (30 R92). -/
def IsFormatN (i : Instr) : Prop := ∀ tag t, i ≠ .setvar tag t

theorem IsFormatN.encode_eq {i : Instr} (h : IsFormatN i) : encode i = encodeFormatN (opcode i) := by
  cases i with
  | setvar tag t => exact absurd rfl (h tag t)
  | _ => rfl

theorem IsFormatN.wellFormed {i : Instr} (h : IsFormatN i) : i.wellFormed = true := by
  cases i with
  | setvar tag t => exact absurd rfl (h tag t)
  | _ => rfl

theorem IsFormatN.opcode_ne_one {i : Instr} (h : IsFormatN i) : opcode i ≠ 1 := by
  cases i with
  | setvar tag t => exact absurd rfl (h tag t)
  | _ => decide

/-- An opcode is reserved, SETVAR's, or that of a command of format N (30 R92). -/
theorem opcode_cases (op : BitVec 4) : 0xB ≤ op.toNat ∨ op = 1 ∨ ∃ i, IsFormatN i ∧ op = opcode i := by
  have hlist : ∀ b : BitVec 4, 0xB ≤ b.toNat ∨ b = 1 ∨
      ∃ i ∈ [Instr.nop, .init, .padblk, .expand, .compress, .block, .output, .hash, .hmac, .clear], b = opcode i := by decide
  rcases hlist op with h | h | ⟨i, hi, h⟩
  · exact .inl h
  · exact .inr (.inl h)
  · exact .inr (.inr ⟨i, by rintro tag t rfl; simp at hi, h⟩)

theorem decode_of_reserved_opcode {c : Word32} (h : 0xB ≤ (fieldOp c).toNat) : decode c = .error .eOpcode := by
  unfold decode
  split
  case h_12 => rfl
  all_goals omega

theorem decode_of_setvar_opcode {c : Word32} (h : fieldOp c = 1) : decode c = decodeSetvar c := by
  rw [decode, h]
  rfl

theorem decode_of_formatN_opcode {c : Word32} {i : Instr} (hi : IsFormatN i) (h : fieldOp c = opcode i) :
    decode c = decodeFormatN c i := by
  rw [decode, h]
  cases i with
  | setvar tag t => exact absurd rfl (hi tag t)
  | _ => rfl

theorem decodeFormatN_eq_ok_iff (c : Word32) (i j : Instr) :
    decodeFormatN c i = .ok j ↔ c.extractLsb' 0 28 = 0 ∧ i = j := by
  unfold decodeFormatN
  split <;> simp_all

theorem decodeSetvar_of_reserved_tag {c : Word32} (h : 8 ≤ (fieldTag c).toNat) : decodeSetvar c = .error .eVariant := by
  rw [decodeSetvar, (ofBits_eq_none_iff _).mpr h]

theorem decodeSetvar_of_tag {c : Word32} {tag : VariantTag} (h : tag.bits = fieldTag c) :
    decodeSetvar c =
      if c.extractLsb' 10 14 ≠ 0 ∨ (tag ≠ .sha512t ∧ fieldT c ≠ 0) then .error .eRsvd
      else if tag = .sha512t ∧ tLegal (fieldT c) = false then .error .eT
      else .ok (.setvar tag (fieldT c)) := by
  rw [decodeSetvar, (ofBits_eq_some_iff _ tag).mpr h]

/-- The `tag` of a word is reserved or names a variant (30 R96). -/
theorem fieldTag_cases (c : Word32) : 8 ≤ (fieldTag c).toNat ∨ ∃ tag : VariantTag, tag.bits = fieldTag c := by
  cases h : VariantTag.ofBits (fieldTag c) with
  | none => exact .inl ((ofBits_eq_none_iff _).mp h)
  | some tag => exact .inr ⟨tag, (ofBits_eq_some_iff _ tag).mp h⟩

/-- A word that decodes as SETVAR has a variant in `tag`, no reserved bit set, and in `t` what that variant takes (30 R95 steps 4 to 6). -/
theorem decodeSetvar_eq_ok {c : Word32} {i : Instr} (h : decodeSetvar c = .ok i) :
    ∃ tag : VariantTag, tag.bits = fieldTag c ∧ c.extractLsb' 10 14 = 0 ∧ i = .setvar tag (fieldT c) ∧ i.wellFormed = true := by
  rcases fieldTag_cases c with htag | ⟨tag, htag⟩
  · rw [decodeSetvar_of_reserved_tag htag] at h
    contradiction
  · rw [decodeSetvar_of_tag htag] at h
    split at h
    · contradiction
    · split at h
      · contradiction
      · rename_i hrsvd ht
        cases h
        rw [not_or, not_not] at hrsvd
        exact ⟨tag, htag, hrsvd.1, rfl, (wellFormed_setvar_iff _ _).mpr ⟨if_neg hrsvd.2, if_neg ht⟩⟩

/-! ## Encoding and decoding are inverse -/

theorem encode_formatN_of_word {c : Word32} {i : Instr} (hi : IsFormatN i) (hop : fieldOp c = opcode i)
    (hrsvd : c.extractLsb' 0 28 = 0) : encode i = c := by
  rw [hi.encode_eq, encodeFormatN, ← hop, ← hrsvd, word_eq_fieldsN]

theorem encode_setvar_of_word {c : Word32} {tag : VariantTag} (hop : fieldOp c = 1) (htag : tag.bits = fieldTag c)
    (hrsvd : c.extractLsb' 10 14 = 0) : encode (.setvar tag (fieldT c)) = c := by
  calc encode (.setvar tag (fieldT c)) = fieldOp c ++ (fieldTag c ++ (c.extractLsb' 10 14 ++ fieldT c)) := by
        rw [encode, hop, htag, hrsvd]
    _ = c := word_eq_fieldsV c

/-- Settles O1: `decode_encode`, by the format of the command. -/
theorem decodeOfEncodeIsIdentity : Obligations.DecodeOfEncodeIsIdentity :=
  fun _ => decode_encode

/-- Settles O2: a word that decodes has no reserved bit set, so the fields that the command keeps are all of it. -/
theorem encodeOfDecodeIsIdentity : Obligations.EncodeOfDecodeIsIdentity := by
  intro c i h
  rcases opcode_cases (fieldOp c) with hop | hop | ⟨j, hj, hop⟩
  · rw [decode_of_reserved_opcode hop] at h
    contradiction
  · rw [decode_of_setvar_opcode hop] at h
    obtain ⟨tag, htag, hrsvd, rfl, hwf⟩ := decodeSetvar_eq_ok h
    exact ⟨encode_setvar_of_word hop htag hrsvd, hwf⟩
  · rw [decode_of_formatN_opcode hj hop] at h
    obtain ⟨hrsvd, rfl⟩ := (decodeFormatN_eq_ok_iff c j i).mp h
    exact ⟨encode_formatN_of_word hj hop hrsvd, hj.wellFormed⟩

/-- Settles O3: each word is evaluated. -/
theorem wordsOfTheSpecDecode : Obligations.WordsOfTheSpecDecode := by
  unfold Obligations.WordsOfTheSpecDecode
  decide

/-! ## The step of a command -/

/-- A write to CMD while nothing is in flight issues the word, and answers OK (30 R95). -/
theorem perform_cmd_idle {s : State} (c : Word32) (hb : s.status.busy = false) :
    perform (.wr32 0x004 c) s = mapNext (withReply (.write .ok)) (issue c s) := by
  have hwrite : writeTarget s (.ctrl .cmd) c (unpackBytes c) = issue c s := by
    simp [writeTarget, hb, writeIdle, writeCtrl]
  rw [perform, target4_cmd, hostWrite, hwrite]

/-- The issue of a command word runs the command; with ERR = 1 both are ignored (30 R95 step 2). -/
theorem issue_of_decode {s : State} {c : Word32} {i : Instr} (hb : s.status.busy = false) (hd : decode c = .ok i) :
    issue c s = exec i s := by
  cases he : s.status.err with
  | true => rw [exec_eq_command, command_ignored hb he, issue, if_pos he]
  | false => simp [issue, he, hd]

theorem engineTurn_of_decode {s : State} {i : Instr} (hb : s.status.busy = true) (hd : decode s.cmd = .ok i) :
    engineTurn s = exec i s := by
  rw [engineTurn_inFlight hb hd, exec_inFlight i hb]

/-- Settles O5: the step performs the first event, or the engine's turn where there is none. -/
theorem stepRunsTheDecodedCommand : Obligations.StepRunsTheDecodedCommand := by
  intro s es i
  refine ⟨fun c hev hb hd => ?_, fun w hw hb hd => ?_, fun hev hb hd => ?_, fun hev hb hd => ?_⟩
  · have hb' : (withEvents es s).status.busy = false := hb
    rw [step_cons hev, perform_cmd_idle c hb', issue_of_decode hb' hd]
  · have hev : (s.withFetchWord 32 w).events = .wr32 0x004 (BitVec.ofNat 32 w) :: s.events := by
      rw [State.withFetchWord, placeCommand, Nat.mod_eq_of_lt hw, withEvents_events]
    have hs : withEvents s.events (s.withFetchWord 32 w) = s := rfl
    rw [step_cons hev, hs, perform_cmd_idle _ hb, issue_of_decode hb hd]
  · rw [step_cons hev]
    exact engineTurn_of_decode hb hd
  · rw [step_nil hev]
    exact engineTurn_of_decode hb hd

/-! ## The order of the conditions of R95 -/

/-- Steps 3 to 6 of R95: the decode error of a word, by its fields. -/
def decodeError (c : Word32) : Option ErrCode :=
  let op := (fieldOp c).toNat
  let tag := (fieldTag c).toNat
  let t := (fieldT c).toNat
  if 0xB ≤ op then some .eOpcode
  else if op = 1 ∧ 8 ≤ tag then some .eVariant
  else if (op ≠ 1 ∧ c.extractLsb' 0 28 ≠ 0) ∨ (op = 1 ∧ (c.extractLsb' 10 14 ≠ 0 ∨ (tag ≠ 7 ∧ fieldT c ≠ 0))) then some .eRsvd
  else if op = 1 ∧ tag = 7 ∧ ¬ (t % 8 = 0 ∧ 0 < t ∧ t < 512 ∧ t ≠ 384) then some .eT
  else none

/-- Steps 7 to 10 of R95: the acceptance error of the command with opcode `op`. -/
def acceptanceError (op : Nat) (s : State) : Option ErrCode :=
  if 2 ≤ op ∧ op ≤ 9 ∧ s.variant.valid = false then some .eNovar
  else if (op = 3 ∨ op = 8 ∨ op = 9) ∧ s.params.msgCap < s.msgLen.toNat then some .eLen
  else if op = 9 ∧ s.params.keyCap < s.keyLen.toNat then some .eLen
  else if op = 3 ∧ nblkView s ≤ s.bidx.toNat then some .eBidx
  else none

theorem tLegal_eq_false_iff (t : BitVec 10) :
    tLegal t = false ↔ ¬ (t.toNat % 8 = 0 ∧ 0 < t.toNat ∧ t.toNat < 512 ∧ t.toNat ≠ 384) := by
  rw [← Bool.not_eq_true]
  simp [tLegal, and_assoc]

theorem bits_toNat_eq_seven_iff (tag : VariantTag) : tag.bits.toNat = 7 ↔ tag = .sha512t := by
  cases tag <;> decide

theorem bits_toNat_lt (tag : VariantTag) : tag.bits.toNat < 8 := by
  cases tag <;> decide

theorem opcode_toNat_lt (i : Instr) : (opcode i).toNat < 0xB := by
  cases i <;> simp [opcode]

theorem decodeError_of_reserved_opcode {c : Word32} (h : 0xB ≤ (fieldOp c).toNat) : decodeError c = some .eOpcode :=
  if_pos h

theorem decodeError_of_setvar_opcode {c : Word32} (h : fieldOp c = 1) :
    decodeError c =
      if 8 ≤ (fieldTag c).toNat then some .eVariant
      else if c.extractLsb' 10 14 ≠ 0 ∨ ((fieldTag c).toNat ≠ 7 ∧ fieldT c ≠ 0) then some .eRsvd
      else if (fieldTag c).toNat = 7 ∧ tLegal (fieldT c) = false then some .eT
      else none := by
  simp [decodeError, h, tLegal_eq_false_iff]

theorem decodeError_of_formatN_opcode {c : Word32} {i : Instr} (hi : IsFormatN i) (h : fieldOp c = opcode i) :
    decodeError c = if c.extractLsb' 0 28 = 0 then none else some .eRsvd := by
  have hlt : (fieldOp c).toNat < 0xB := h ▸ opcode_toNat_lt i
  have hne : (fieldOp c).toNat ≠ 1 := fun h1 => hi.opcode_ne_one (h ▸ BitVec.eq_of_toNat_eq h1)
  rw [← ite_not]
  simp [decodeError, hne, hlt.not_ge]

/-- The error of a decode, if it is one. -/
def errorOf : Except ErrCode Instr → Option ErrCode
  | .ok _ => none
  | .error e => some e

/-- The decoder refuses a word by the error that its bits name (30 R95 steps 3 to 6). -/
theorem errorOf_decode (c : Word32) : errorOf (decode c) = decodeError c := by
  rcases opcode_cases (fieldOp c) with hop | hop | ⟨i, hi, hop⟩
  · rw [decode_of_reserved_opcode hop, decodeError_of_reserved_opcode hop, errorOf]
  · rw [decode_of_setvar_opcode hop, decodeError_of_setvar_opcode hop]
    rcases fieldTag_cases c with htag | ⟨tag, htag⟩
    · rw [decodeSetvar_of_reserved_tag htag, if_pos htag, errorOf]
    · rw [decodeSetvar_of_tag htag, ← htag, if_neg (bits_toNat_lt tag).not_ge]
      simp only [apply_ite errorOf, ne_eq, bits_toNat_eq_seven_iff]
      rfl
  · rw [decode_of_formatN_opcode hi hop, decodeError_of_formatN_opcode hi hop, decodeFormatN, apply_ite errorOf]
    rfl

theorem checkVariant_eq (s : State) : checkVariant s = if s.variant.valid = false then some .eNovar else none := by
  cases hv : s.variant.valid <;> simp [checkVariant, hv]

/-- A list of checks that begins with the condition `p` is one more link of the chain. -/
theorem firstError_ite (p : Prop) [Decidable p] (e : ErrCode) (cs : List (Option ErrCode)) :
    firstError ((if p then some e else none) :: cs) = if p then some e else firstError cs := by
  split <;> rfl

/-- A well-formed command is refused by the error that its opcode and the state name (30 R95 steps 7 to 10). -/
theorem firstError_checksOf {i : Instr} (s : State) (h : i.wellFormed = true) :
    firstError (checksOf i s) = acceptanceError (opcode i).toNat s := by
  cases i with
  | setvar tag t => rw [checksOf, checkRsvd_of_wellFormed h, checkT_of_wellFormed h]; rfl
  | _ =>
    simp [checksOf, checkVariant_eq, checkMsgLen, checkKeyLen, checkBidx, firstError_ite, firstError, acceptanceError, opcode]

/-- The issue of a word with no command in flight and no error pending (30 R95 steps 3 to 11). -/
theorem issue_eq {s : State} (c : Word32) (hb : s.status.busy = false) (he : s.status.err = false) :
    ∃ st, issue c s = .next
      (((decodeError c).or (acceptanceError (fieldOp c).toNat s)).elim (accept c st s) (fun e => errorEntry e s)) := by
  rcases issue_cases c s with ⟨herr, _⟩ | ⟨_, e, hd, hissue⟩ | ⟨_, i, hd, hissue⟩
  · rw [he] at herr
    contradiction
  · have hce : decodeError c = some e := by rw [← errorOf_decode, hd, errorOf]
    exact ⟨.idle, by rw [hissue, hce, Option.some_or, Option.elim_some]⟩
  · have hce : decodeError c = none := by rw [← errorOf_decode, hd, errorOf]
    obtain ⟨henc, hwf⟩ := encodeOfDecodeIsIdentity c i hd
    have hop : opcode i = fieldOp c := by rw [← fieldOp_encode, henc]
    refine ⟨startStage i, ?_⟩
    rw [hissue, exec_eq_command, henc, hce, Option.none_or, ← hop, ← firstError_checksOf s hwf]
    cases hf : firstError (checksOf i s) with
    | some e => exact command_error hb he hf
    | none => exact command_accept hb he hf

/-- Settles O4: BUSY and ERR decide first, then `issue_eq`, whose two lists of errors in a row are the list of R95. -/
theorem cmdWriteDecidesInOrder : Obligations.CmdWriteDecidesInOrder := by
  intro s c op tag t
  cases hb : s.status.busy with
  | true => exact ⟨s.seq, hostWrite_dropped c _ hb (by decide) (by decide)⟩
  | false =>
    rw [perform_cmd_idle c hb]
    cases he : s.status.err with
    | true => exact ⟨s.seq, by simp [issue, he]⟩
    | false =>
      obtain ⟨st, hissue⟩ := issue_eq c hb he
      refine ⟨{ stage := st, j := 0, t := 0 }, ?_⟩
      rw [hissue, mapNext_next]
      simp only [decodeError, acceptanceError, fieldOp_toNat, fieldTag_toNat, fieldT_toNat, fieldT_eq_zero_iff,
        reservedN_eq_zero_iff, reservedV_eq_zero_iff, ne_eq, op, tag, t, Bool.false_eq_true, if_false]
      congr 2
      split_ifs <;> rfl

/-! ## WAIT -/

/-- A WAIT with nothing in flight ends at its first poll (30 R100). -/
theorem waitRun_idle {s : State} (turns : List Bool) (hb : s.status.busy = false) :
    waitRun turns s = some (withReply (.read (statusWord s.status) .ok) s) := by
  cases turns with
  | nil => exact pollThen_idle _ hb
  | cons turn turns =>
    cases turn with
    | false => exact pollThen_idle _ hb
    | true => rw [waitRun, act_engine_idle hb, Option.bind_some, pollThen_idle _ hb]

/-- A WAIT whose polls all come before the turn of the engine does not end (30 R100). -/
theorem waitRun_without_turn {s : State} {turns : List Bool} (hb : s.status.busy = true) (ht : true ∉ turns) :
    waitRun turns s = none := by
  induction turns generalizing s with
  | nil => exact pollThen_busy _ hb
  | cons turn turns ih =>
    rw [List.mem_cons, not_or] at ht
    obtain ⟨hturn, hturns⟩ := ht
    cases turn with
    | false => exact (pollThen_busy _ hb).trans (ih hb hturns)
    | true => exact absurd rfl hturn

/-- Settles O60: by whether a command is in flight, and whether some poll comes after a turn of the engine. -/
theorem waitPollsUntilIdle : Obligations.WaitPollsUntilIdle := by
  intro s turns
  exact ⟨waitRun_idle turns, waitRun_without_turn,
    fun i hb hd ht => ⟨_, exec_inFlight i hb, rfl, waitRun_inFlight hb hd ht⟩⟩

end Sys2Proof.Proofs
end

section
/-! The word operations, bit by bit (spec/40_word_ops.md R123 to R132): rotations read their operand circularly, a shift reads zeros past the
top, and every other operation combines the bits of one position. -/

namespace Sys2Proof.Proofs

open Sys2Proof.Machine Sys2Proof.Safety

section WordBits

variable {w : Nat}

/-! ## Rotations and the shift -/

/-- Below the width the rotation of the model is the one of the library. -/
theorem rotateRight_eq_bitVec_rotateRight (x : BitVec w) {n : Nat} (hn : n < w) : rotateRight x n = x.rotateRight n := by
  rw [rotateRight, BitVec.rotateRight_def, Nat.mod_eq_of_lt hn]

/-- 40 R123: the position `i + n` passes the top at most once. -/
theorem getLsbD_rotateRight (x : BitVec w) {n i : Nat} (hn : n < w) (hi : i < w) :
    (rotateRight x n).getLsbD i = x.getLsbD ((i + n) % w) := by
  rw [rotateRight_eq_bitVec_rotateRight x hn, BitVec.getLsbD_rotateRight_of_lt hn]
  by_cases hlow : i < w - n
  · have hmod : (i + n) % w = n + i := by rw [Nat.mod_eq_of_lt (by omega), Nat.add_comm]
    simp [hlow, hmod]
  · have hmod : (i + n) % w = i - (w - n) := by rw [Nat.mod_eq_sub_mod (by omega), Nat.mod_eq_of_lt (by omega)]; omega
    simp [hlow, hmod, hi]

/-- 40 R123, R124: the two rotations join the same two shifts. -/
theorem rotateLeft_eq_rotateRight (x : BitVec w) {n : Nat} (hn : n ≤ w) : rotateLeft x n = rotateRight x (w - n) := by
  rw [rotateLeft, rotateRight, Nat.sub_sub_self hn, BitVec.or_comm]

/-- 40 R125: no condition, since a bit past the top is zero. -/
theorem getLsbD_shiftRight (x : BitVec w) (n i : Nat) : (shiftRight x n).getLsbD i = x.getLsbD (i + n) := by
  rw [shiftRight, BitVec.getLsbD_ushiftRight, Nat.add_comm]

/-! ## The mixing functions -/

/-- 40 R126; past the top the complement in `ch` reads zero, as `z` does. -/
theorem getLsbD_ch (x y z : BitVec w) (i : Nat) :
    (ch x y z).getLsbD i = if x.getLsbD i then y.getLsbD i else z.getLsbD i := by
  rw [ch, BitVec.getLsbD_xor, BitVec.getLsbD_and, BitVec.getLsbD_and, BitVec.getLsbD_not]
  by_cases hi : i < w
  · cases x.getLsbD i <;> simp [hi]
  · have hge : w ≤ i := Nat.le_of_not_lt hi
    simp [BitVec.getLsbD_of_ge, hge]

/-- On single bits the exclusive or of the three products is the majority. -/
theorem xor_products_eq_majority : ∀ a b c : Bool,
    ((a && b) ^^ (a && c) ^^ (b && c)) = decide (2 ≤ a.toNat + b.toNat + c.toNat) := by
  decide

/-- 40 R127. -/
theorem getLsbD_maj (x y z : BitVec w) (i : Nat) :
    (maj x y z).getLsbD i = decide (2 ≤ (x.getLsbD i).toNat + (y.getLsbD i).toNat + (z.getLsbD i).toNat) := by
  rw [← xor_products_eq_majority]
  simp only [maj, BitVec.getLsbD_xor, BitVec.getLsbD_and]

/-- 40 R128. -/
theorem getLsbD_parity (x y z : BitVec w) (i : Nat) :
    (parity x y z).getLsbD i = (x.getLsbD i ^^ y.getLsbD i ^^ z.getLsbD i) := by
  simp only [parity, BitVec.getLsbD_xor]

/-! ## The sums of displaced words -/

/-- The form of sigma (40 R129, R130): three rotations. -/
theorem getLsbD_rotations (x : BitVec w) {a b c i : Nat} (ha : a < w) (hb : b < w) (hc : c < w) (hi : i < w) :
    (rotateRight x a ^^^ rotateRight x b ^^^ rotateRight x c).getLsbD i =
      (x.getLsbD ((i + a) % w) ^^ x.getLsbD ((i + b) % w) ^^ x.getLsbD ((i + c) % w)) := by
  simp only [BitVec.getLsbD_xor, getLsbD_rotateRight x _ hi, ha, hb, hc]

/-- The form of delta (40 R131, R132): two rotations and a shift. -/
theorem getLsbD_rotations_shift (x : BitVec w) {a b i : Nat} (c : Nat) (ha : a < w) (hb : b < w) (hi : i < w) :
    (rotateRight x a ^^^ rotateRight x b ^^^ shiftRight x c).getLsbD i =
      (x.getLsbD ((i + a) % w) ^^ x.getLsbD ((i + b) % w) ^^ x.getLsbD (i + c)) := by
  simp only [BitVec.getLsbD_xor, getLsbD_rotateRight x _ hi, getLsbD_shiftRight, ha, hb]

end WordBits

/-! ## The obligations -/

/-- Settles O6: `rotateLeft` is a `rotateRight`, and that reads its operand circularly. -/
theorem rotationsAreCircular : Obligations.RotationsAreCircular := by
  intro w n i x hpos hn hi
  have hleft : rotateLeft x n = rotateRight x (w - n) := rotateLeft_eq_rotateRight x hn.le
  refine ⟨getLsbD_rotateRight x hn hi, ?_, hleft⟩
  rw [hleft]
  exact getLsbD_rotateRight x (Nat.sub_lt_self hpos hn.le) hi

/-- Settles O7, one lemma for each of the three functions. -/
theorem mixingFunctionsBitwise : Obligations.MixingFunctionsBitwise :=
  fun _ i x y z => ⟨getLsbD_ch x y z i, getLsbD_maj x y z i, getLsbD_parity x y z i⟩

/-- Settles O8: at each width the branch of the definition is one of the two forms, with the amounts of 93 G2. -/
theorem sigmaDeltaBits : Obligations.SigmaDeltaBits := by
  constructor
  · intro x i hi
    simp only [sigma0, sigma1, delta0, delta1, if_true]
    refine ⟨getLsbD_rotations x ?_ ?_ ?_ hi, getLsbD_rotations x ?_ ?_ ?_ hi,
      getLsbD_rotations_shift x 3 ?_ ?_ hi, getLsbD_rotations_shift x 10 ?_ ?_ hi⟩ <;> decide
  · intro x i hi
    simp only [sigma0, sigma1, delta0, delta1, show ¬ (64 = 32) by decide, if_false]
    refine ⟨getLsbD_rotations x ?_ ?_ ?_ hi, getLsbD_rotations x ?_ ?_ ?_ hi,
      getLsbD_rotations_shift x 7 ?_ ?_ hi, getLsbD_rotations_shift x 6 ?_ ?_ hi⟩ <;> decide

end Sys2Proof.Proofs
end

section
/-! WordCodec and Padding (spec/41_codec_padding.md R150 to R162): a Word is the base-256 value of its bytes and its bytes determine it, so
the two conversions are inverse to each other; the padded message as bytes and as a whole number of Blocks; and the commands that run the
codec, PADBLK and OUTPUT (spec/43_variants.md R231), up to the loop of low-level commands (spec/70_reset_and_hazards.md R307). -/

namespace Sys2Proof.Proofs

open Sys2Proof.Machine Sys2Proof.Safety

/-! ## The value of a list of bytes -/

/-- The bytes as a base-256 numeral, the first byte the most significant. -/
def bytesValue (bs : List Byte) : Nat := bs.foldl (fun acc b => acc * 256 + b.toNat) 0

theorem bytesValue_concat (bs : List Byte) (b : Byte) : bytesValue (bs ++ [b]) = bytesValue bs * 256 + b.toNat := by
  simp [bytesValue]

theorem bytesValue_append (bs cs : List Byte) :
    bytesValue (bs ++ cs) = bytesValue bs * 256 ^ cs.length + bytesValue cs := by
  induction cs using List.reverseRecOn with
  | nil => simp [bytesValue]
  | append_singleton cs c ih =>
    rw [← List.append_assoc, bytesValue_concat, bytesValue_concat, ih, List.length_append, List.length_singleton, pow_succ]
    ring

theorem bytesValue_cons (b : Byte) (bs : List Byte) : bytesValue (b :: bs) = b.toNat * 256 ^ bs.length + bytesValue bs := by
  simpa [bytesValue] using bytesValue_append [b] bs

theorem bytesValue_lt (bs : List Byte) : bytesValue bs < 256 ^ bs.length := by
  induction bs using List.reverseRecOn with
  | nil => simp [bytesValue]
  | append_singleton bs b ih =>
    have hb := b.isLt
    rw [bytesValue_concat, List.length_append, List.length_singleton, pow_succ]
    omega

/-- Byte `j` back from the value: the bytes before it are a multiple of 256, those after it less than its unit. -/
theorem bytesValue_div_mod (bs : List Byte) {j : Nat} (hj : j < bs.length) :
    bytesValue bs / 256 ^ (bs.length - 1 - j) % 256 = bs[j].toNat := by
  have hlow := bytesValue_lt (bs.drop (j + 1))
  have hsplit : bytesValue bs =
      bytesValue (bs.drop (j + 1)) + 256 ^ (bs.drop (j + 1)).length * (bytesValue (bs.take j) * 256 + bs[j].toNat) := by
    conv_lhs => rw [← List.take_append_drop (j + 1) bs, bytesValue_append, List.take_add_one, List.getElem?_eq_getElem hj,
      Option.toList_some, bytesValue_concat]
    ring
  have hlen : bs.length - 1 - j = (bs.drop (j + 1)).length := by rw [List.length_drop]; omega
  rw [hlen, hsplit, Nat.add_mul_div_left _ _ (by positivity), Nat.div_eq_of_lt hlow, Nat.zero_add, Nat.mul_add_mod_of_lt bs[j].isLt]

theorem bytesValue_eq_sum (bs : List Byte) :
    bytesValue bs = ((List.range bs.length).map (fun j => (bs.getD j 0).toNat * 2 ^ (8 * (bs.length - 1 - j)))).sum := by
  induction bs with
  | nil => rfl
  | cons b bs ih =>
    rw [bytesValue_cons, ih, List.length_cons, List.range_succ_eq_map, List.map_cons, List.map_map, List.sum_cons,
      show 256 = 2 ^ 8 from rfl, ← pow_mul]
    simp [Function.comp_def, Nat.sub_sub, Nat.add_comm]

/-! ## The bytes of a Word -/

/-- Byte `j` of a Word, counted from the most significant (41 R151). -/
def msByte {w : Nat} (x : BitVec w) (j : Nat) : Byte := x.extractLsb' (8 * (wordBytes w - 1 - j)) 8

theorem wordToBytes_eq_map_msByte {w : Nat} (x : BitVec w) : wordToBytes x = (List.range (wordBytes w)).map (msByte x) := rfl

/-- The two word widths are whole numbers of bytes (00 R11). -/
theorem wordBytes_whole {w : Nat} (h : w = 32 ∨ w = 64) : 8 * wordBytes w = w ∧ 0 < wordBytes w := by
  rcases h with rfl | rfl <;> decide

theorem tagW_eq (tag : VariantTag) : tagW tag = 32 ∨ tagW tag = 64 := by cases tag <;> decide

section Codec

variable {w : Nat}

/-- A Word of whole bytes is known by its bytes. -/
theorem eq_of_msByte_eq (h8 : 8 * wordBytes w = w) {x y : BitVec w} (h : ∀ j < wordBytes w, msByte x j = msByte y j) : x = y := by
  ext i hi
  have hbit := congrArg (BitVec.getLsbD · (i % 8)) (h (wordBytes w - 1 - i / 8) (by omega))
  have hat : 8 * (wordBytes w - 1 - (wordBytes w - 1 - i / 8)) + i % 8 = i := by omega
  simpa [msByte, hat, BitVec.getLsbD_eq_getElem hi, Nat.mod_lt] using hbit

/-- 41 R150: the value of the packed Word is that of its bytes. -/
theorem packWord_toNat (h8 : 8 * wordBytes w = w) (s : List Byte) (a : Nat) :
    (packWord w s a).toNat = bytesValue ((List.range (wordBytes w)).map (fun j => byteAt s (a + j))) := by
  have hlt := bytesValue_lt ((List.range (wordBytes w)).map (fun j => byteAt s (a + j)))
  rw [List.length_map, List.length_range, show 256 = 2 ^ 8 from rfl, ← pow_mul, h8] at hlt
  rw [packWord, BitVec.toNat_ofNat, ← Nat.mod_eq_of_lt hlt, bytesValue, List.foldl_map]

/-- Packing then taking byte `j` gives the byte packed there (41 R150, R151). -/
theorem msByte_packWord (h8 : 8 * wordBytes w = w) (s : List Byte) (a : Nat) {j : Nat} (hj : j < wordBytes w) :
    msByte (packWord w s a) j = byteAt s (a + j) := by
  apply BitVec.eq_of_toNat_eq
  have hbyte := bytesValue_div_mod ((List.range (wordBytes w)).map (fun j => byteAt s (a + j))) (j := j) (by simpa using hj)
  rw [msByte, BitVec.extractLsb'_toNat, packWord_toNat h8, Nat.shiftRight_eq_div_pow, pow_mul]
  simpa using hbyte

/-! ## Lists of Words and lists of bytes -/

theorem bytesToWords_length (s : List Byte) :
    (bytesToWords w s).length = (s.length + (wordBytes w - 1)) / wordBytes w := by
  simp [bytesToWords]

theorem bytesToWords_getD (s : List Byte) {k : Nat} (hk : k < (bytesToWords w s).length) :
    (bytesToWords w s).getD k 0 = packWord w s (k * wordBytes w) := by
  rw [← List.getElem_eq_getD (h := hk)]
  simp [bytesToWords]

theorem wordsToBytes_cons (x : BitVec w) (ws : List (BitVec w)) : wordsToBytes (x :: ws) = wordToBytes x ++ wordsToBytes ws :=
  List.flatMap_cons

theorem wordsToBytes_append (ws us : List (BitVec w)) : wordsToBytes (ws ++ us) = wordsToBytes ws ++ wordsToBytes us :=
  List.flatMap_append

/-- 41 R151: byte `k * wb + j` of the serialization is byte `j` of Word `k`. -/
theorem wordsToBytes_getD (ws : List (BitVec w)) {k j : Nat} (hk : k < ws.length) (hj : j < wordBytes w) :
    (wordsToBytes ws).getD (k * wordBytes w + j) 0 = msByte (ws.getD k 0) j := by
  induction ws generalizing k with
  | nil => exact absurd hk (Nat.not_lt_zero k)
  | cons x ws ih =>
    rw [wordsToBytes_cons]
    cases k with
    | zero => rw [List.getD_append _ _ _ _ (by simpa using hj)]; simp [wordToBytes_eq_map_msByte, hj]
    | succ k =>
      have hpast : (k + 1) * wordBytes w + j = wordBytes w + (k * wordBytes w + j) := by ring
      rw [hpast, List.getD_append_right _ _ _ _ (by simp), wordToBytes_length, Nat.add_sub_cancel_left,
        ih (Nat.lt_of_succ_lt_succ hk), List.getD_cons_succ]

/-- Byte `i` of the serialization, by the Word it falls in. -/
theorem wordsToBytes_getD_div_mod (hpos : 0 < wordBytes w) (ws : List (BitVec w)) {i : Nat} (hi : i < ws.length * wordBytes w) :
    (wordsToBytes ws).getD i 0 = msByte (ws.getD (i / wordBytes w) 0) (i % wordBytes w) := by
  rw [← wordsToBytes_getD ws (Nat.div_lt_of_lt_mul (by rwa [Nat.mul_comm])) (Nat.mod_lt i hpos), Nat.div_add_mod']

/-- Serializing the Words of `s` gives its bytes, read up to a whole Word (41 R152). -/
theorem wordsToBytes_bytesToWords (h8 : 8 * wordBytes w = w) (hpos : 0 < wordBytes w) (s : List Byte) :
    wordsToBytes (bytesToWords w s) = (List.range ((bytesToWords w s).length * wordBytes w)).map (byteAt s) := by
  refine List.ext_getElem (by simp) (fun i hi _ => ?_)
  have hlt : i < (bytesToWords w s).length * wordBytes w := by simpa using hi
  rw [List.getElem_eq_getD 0, wordsToBytes_getD_div_mod hpos _ hlt,
    bytesToWords_getD s (Nat.div_lt_of_lt_mul (by rwa [Nat.mul_comm])), msByte_packWord h8 s _ (Nat.mod_lt i hpos), Nat.div_add_mod']
  simp

theorem map_byteAt_range (s : List Byte) (z : Nat) : (List.range (s.length + z)).map (byteAt s) = s ++ List.replicate z 0 := by
  refine List.ext_getElem (by simp) (fun i _ _ => ?_)
  by_cases hi : i < s.length
  · simp [byteAt, hi]
  · simp [byteAt, Nat.le_of_not_lt hi, List.getElem_append_right]

/-- 41 R152: serializing the Words of `s` gives `s` and the zero bytes that fill its last Word. -/
theorem wordsToBytes_bytesToWords_fill (h8 : 8 * wordBytes w = w) (hpos : 0 < wordBytes w) (s : List Byte) :
    ∃ z, z < wordBytes w ∧ s.length + z = (bytesToWords w s).length * wordBytes w ∧
      wordsToBytes (bytesToWords w s) = s ++ List.replicate z 0 := by
  have hdiv := Nat.div_add_mod (s.length + (wordBytes w - 1)) (wordBytes w)
  have hmod := Nat.mod_lt (s.length + (wordBytes w - 1)) hpos
  rw [← bytesToWords_length (w := w), Nat.mul_comm] at hdiv
  have hsum : s.length + ((bytesToWords w s).length * wordBytes w - s.length) = (bytesToWords w s).length * wordBytes w := by omega
  refine ⟨(bytesToWords w s).length * wordBytes w - s.length, by omega, hsum, ?_⟩
  rw [wordsToBytes_bytesToWords h8 hpos, ← map_byteAt_range, hsum]

/-- 41 R152: packing the bytes of Words gives the Words back. -/
theorem bytesToWords_wordsToBytes (h8 : 8 * wordBytes w = w) (hpos : 0 < wordBytes w) (ws : List (BitVec w)) :
    bytesToWords w (wordsToBytes ws) = ws := by
  have hlen : (bytesToWords w (wordsToBytes ws)).length = ws.length := by
    rw [bytesToWords_length, wordsToBytes_length, Nat.mul_comm, Nat.mul_add_div hpos, Nat.div_eq_of_lt (by omega), Nat.add_zero]
  refine List.ext_getElem hlen (fun k hk hk' => eq_of_msByte_eq h8 (fun j hj => ?_))
  rw [List.getElem_eq_getD 0, bytesToWords_getD _ hk, msByte_packWord h8 _ _ hj, byteAt, wordsToBytes_getD ws hk' hj,
    List.getElem_eq_getD 0]

/-! ## The length suffix -/

theorem bytesValue_wordToBytes (h8 : 8 * wordBytes w = w) (x : BitVec w) : bytesValue (wordToBytes x) = x.toNat := by
  have hbyte : ∀ j < wordBytes w, byteAt (wordToBytes x) (0 + j) = msByte x j := fun j hj => by
    simp [byteAt, wordToBytes_eq_map_msByte, hj]
  have hpack : packWord w (wordToBytes x) 0 = x :=
    eq_of_msByte_eq h8 (fun j hj => (msByte_packWord h8 _ _ hj).trans (hbyte j hj))
  rw [← congrArg BitVec.toNat hpack, packWord_toNat h8]
  exact congrArg bytesValue (List.map_congr_left fun j hj => (hbyte j (List.mem_range.mp hj)).symm)

theorem bytesValue_pair (h8 : 8 * wordBytes w = w) (x y : BitVec w) :
    bytesValue (wordsToBytes [x, y]) = x.toNat * 2 ^ w + y.toNat := by
  have hlen : (wordToBytes y).length = wordBytes w := wordToBytes_length y
  rw [wordsToBytes_cons, wordsToBytes_cons, wordsToBytes, List.flatMap_nil, List.append_nil, bytesValue_append,
    bytesValue_wordToBytes h8, bytesValue_wordToBytes h8, hlen, show 256 = 2 ^ 8 from rfl, ← pow_mul, h8]

theorem lengthSuffix_length (n : Nat) : (lengthSuffix w n).length = 2 := by
  unfold lengthSuffix
  split <;> rfl

end Codec

/-- 41 R155: the suffix is the 64-bit bit length. -/
theorem bytesValue_lengthSuffix {w n : Nat} (hw : w = 32 ∨ w = 64) :
    bytesValue (wordsToBytes (lengthSuffix w n)) = 8 * n % 2 ^ 64 := by
  obtain ⟨h8, -⟩ := wordBytes_whole hw
  rcases hw with rfl | rfl
  · rw [lengthSuffix, if_pos rfl, bytesValue_pair h8]
    simp only [BitVec.toNat_setWidth, BitVec.extractLsb'_toNat, BitVec.toNat_ofNat, Nat.shiftRight_eq_div_pow]
    omega
  · rw [lengthSuffix, if_neg (by decide), bytesValue_pair h8]
    simp

/-! ## Padding -/

/-- Step 3 brings the Words, with the two of the suffix, to the next multiple of 16 (41 R154). -/
theorem add_zeroWordCount (L : Nat) : L + zeroWordCount (L % 16) + 2 = 16 * ((L + 1) / 16 + 1) := by
  unfold zeroWordCount
  split <;> omega

theorem zeroWordCount_le {r : Nat} (hr : r < 16) : zeroWordCount r ≤ 15 := by
  unfold zeroWordCount
  split <;> omega

/-- 41 R153: the message with its marker, in Words. -/
theorem markedWords_length {w : Nat} (hpos : 0 < wordBytes w) (m : List Byte) :
    (bytesToWords w (m ++ [0x80])).length = m.length / wordBytes w + 1 := by
  rw [bytesToWords_length, List.length_append, List.length_singleton,
    show m.length + 1 + (wordBytes w - 1) = m.length + wordBytes w by omega, Nat.add_div_right _ hpos]

/-- 41 R156, R158: every padded message is a whole number of Blocks. -/
theorem padWords_length {w : Nat} (hpos : 0 < wordBytes w) (m : List Byte) :
    (padWords w m).length = 16 * nblk w m.length := by
  have hblocks : (m.length + 2 * wordBytes w) / (16 * wordBytes w) = (m.length / wordBytes w + 1 + 1) / 16 := by
    rw [Nat.mul_comm 16, ← Nat.div_div_eq_div_mul, Nat.add_mul_div_right _ _ hpos]
  rw [nblk, hblocks, ← markedWords_length hpos, ← add_zeroWordCount]
  simp [padWords, lengthSuffix_length, Nat.add_assoc]

theorem wordsToBytes_replicate_zero {w : Nat} (c : Nat) :
    wordsToBytes (List.replicate c (0 : BitVec w)) = List.replicate (c * wordBytes w) 0 := by
  have hzero : wordToBytes (0 : BitVec w) = List.replicate (wordBytes w) 0 := by
    rw [wordToBytes_eq_map_msByte, List.eq_replicate_iff]
    simp [msByte]
  induction c with
  | zero => simp [wordsToBytes]
  | succ c ih => rw [List.replicate_succ, wordsToBytes_cons, ih, hzero, List.replicate_append_replicate, Nat.succ_mul, Nat.add_comm]

/-- The padded message as bytes: the fill of the last message Word and the zero Words make one run of zero bytes (41 R156). -/
theorem wordsToBytes_padWords {w : Nat} (h8 : 8 * wordBytes w = w) (hpos : 0 < wordBytes w) (m : List Byte) :
    ∃ z, z < 16 * wordBytes w ∧
      wordsToBytes (padWords w m) = m ++ [0x80] ++ List.replicate z 0 ++ wordsToBytes (lengthSuffix w m.length) := by
  obtain ⟨z, hz, -, hfill⟩ := wordsToBytes_bytesToWords_fill h8 hpos (m ++ [0x80])
  have hcount := Nat.mul_le_mul_right (wordBytes w)
    (zeroWordCount_le (Nat.mod_lt (bytesToWords w (m ++ [0x80])).length (by decide : 0 < 16)))
  refine ⟨z + zeroWordCount ((bytesToWords w (m ++ [0x80])).length % 16) * wordBytes w, by omega, ?_⟩
  rw [padWords, wordsToBytes_append, wordsToBytes_append, hfill, wordsToBytes_replicate_zero, ← List.replicate_append_replicate]
  simp

/-! ## The codec obligations -/

/-- Settles O9: packing reads the bytes at their place values, and the serialization finds them there. -/
theorem codecIsBigEndian : Obligations.CodecIsBigEndian := by
  refine ⟨fun w s hw => ⟨bytesToWords_length s, fun k hk => ?_⟩,
    fun w ws hw => ⟨(wordsToBytes_length ws).trans (Nat.mul_comm _ _), fun k j hk hj => wordsToBytes_getD ws hk hj⟩⟩
  obtain ⟨h8, -⟩ := wordBytes_whole hw
  rw [bytesToWords_getD s hk, packWord_toNat h8, bytesValue_eq_sum, List.length_map, List.length_range]
  refine congrArg List.sum (List.map_congr_left fun j hj => ?_)
  have hlt : j < w / 8 := List.mem_range.mp hj
  simp [byteAt, wordBytes, hlt]

/-- Settles O10: each direction is a comparison of bytes. -/
theorem codecRoundTrip : Obligations.CodecRoundTrip := by
  intro w hw
  obtain ⟨h8, hpos⟩ := wordBytes_whole hw
  refine ⟨bytesToWords_wordsToBytes h8 hpos, fun s => ?_⟩
  obtain ⟨z, hz, htotal, hbytes⟩ := wordsToBytes_bytesToWords_fill h8 hpos s
  exact ⟨z, hz, htotal ▸ Nat.mul_mod_left _ _, hbytes⟩

/-- Settles O11: the run of zero bytes is shorter than a Block, and the whole is `nblk` Blocks. -/
theorem paddingAsBytes : Obligations.PaddingAsBytes := by
  intro w m hw hm
  obtain ⟨h8, hpos⟩ := wordBytes_whole hw
  obtain ⟨z, hz, hbytes⟩ := wordsToBytes_padWords h8 hpos m
  have hsuffix : (wordsToBytes (lengthSuffix w m.length)).length = 2 * wordBytes w := by
    rw [wordsToBytes_length, lengthSuffix_length]
  have htotal : m.length + 1 + z + 2 * wordBytes w = 2 * w * nblk w m.length := by
    calc m.length + 1 + z + 2 * wordBytes w = (wordsToBytes (padWords w m)).length := by
          rw [hbytes, List.length_append, hsuffix]; simp [Nat.add_assoc, Nat.add_comm]
      _ = 16 * nblk w m.length * wordBytes w := by rw [wordsToBytes_length, padWords_length hpos]
      _ = 2 * (8 * wordBytes w) * nblk w m.length := by ring
      _ = 2 * w * nblk w m.length := by rw [h8]
  have hvalue : bytesValue (wordsToBytes (lengthSuffix w m.length)) = 8 * m.length := by
    rw [bytesValue_lengthSuffix hw, Nat.mod_eq_of_lt (by omega)]
  exact ⟨z, _, hbytes, by omega, htotal ▸ Nat.mul_mod_right _ _, hsuffix, hvalue⟩

/-- Settles O12. -/
theorem blockCountIsExact : Obligations.BlockCountIsExact :=
  fun _ m hw => ⟨padWords_length (wordBytes_whole hw).2 m, rfl⟩

/-! ## PADBLK and OUTPUT -/

/-- Settles O24: BIDX < NBLK keeps the sixteen Words inside the padded message. -/
theorem padblkCompletes : Obligations.PadblkCompletes := by
  intro s hb hv hbidx
  obtain ⟨-, hpos⟩ := wordBytes_whole (tagW_eq s.variant.tag)
  have hlen := padWords_length hpos (message s)
  rw [← nblkView_eq hv] at hlen
  refine ⟨(padblkEffect s).blk, exec_inFlight .padblk hb, fun i => ?_⟩
  have hin : 16 * s.bidx.toNat + i.val < (padWords (tagW s.variant.tag) (message s)).length := by omega
  refine ⟨_, List.getElem?_eq_getElem hin, ?_⟩
  simp only [padblkEffect, paddedRegs, paddedBlock, Fin.getElem_fin, zextFile_getElem, blockAt_getElem]
  rw [List.getElem_eq_getD 0]

/-- A byte of a Word is a byte of the register that holds it (10 R21). -/
theorem msByte_setWidth {w : Nat} (h8 : 8 * wordBytes w = w) (x : Reg64) {j : Nat} (hj : j < wordBytes w) :
    msByte (x.setWidth w) j = x.extractLsb' (8 * (wordBytes w - 1 - j)) 8 := by
  ext i hi
  have hin : 8 * (wordBytes w - 1 - j) + i < w := by omega
  simp [msByte, hin]

/-- Byte `i` of the output of the State in `h` (43 R230, 41 R151). -/
theorem outputOf_getD {tag : VariantTag} {dlen i : Nat} (h : Vector Reg64 8) (hi : i < dlen)
    (hdlen : dlen ≤ tagSw tag * wordBytes (tagW tag)) :
    (outputOf tag dlen h).getD i 0 =
      msByte ((h.toList.getD (i / wordBytes (tagW tag)) 0).setWidth (tagW tag)) (i % wordBytes (tagW tag)) := by
  obtain ⟨-, hpos⟩ := wordBytes_whole (tagW_eq tag)
  have hsw := tagSw_le tag
  have hword : i / wordBytes (tagW tag) < tagSw tag := Nat.div_lt_of_lt_mul (by rw [Nat.mul_comm]; omega)
  have hword8 : i / wordBytes (tagW tag) < 8 := hword.trans_le hsw
  have hlen : ((truncFile (tagW tag) h).toList.take (tagSw tag)).length = tagSw tag := by simp [hsw]
  have htake : (outputOf tag dlen h).getD i 0 = (wordsToBytes ((truncFile (tagW tag) h).toList.take (tagSw tag))).getD i 0 := by
    simp [outputOf, outputBytes, tagAlgo, hi]
  rw [htake, wordsToBytes_getD_div_mod hpos _ (by rw [hlen]; omega)]
  simp [hword, hword8, truncFile]

/-- Settles O28: a constructible variant's digest is no longer than the Words of H, so every byte below DLEN is one of theirs. -/
theorem outputCompletes : Obligations.OutputCompletes := by
  intro s hb hv ht wb
  obtain ⟨h8, hpos⟩ := wordBytes_whole (tagW_eq s.variant.tag)
  obtain ⟨hfits, -⟩ := digestLen_le ht
  rw [Nat.min_eq_left (tagSw_le _)] at hfits
  have hdlen : dlenView s = currentDlen s := by simp [dlenView, hv]
  refine ⟨(outputEffect s).dout, exec_inFlight .output hb, fun i => ?_⟩
  simp only [outputEffect, Fin.getElem_fin, doutOf_getElem, hdlen]
  split
  · next hi => rw [outputOf_getD s.h hi hfits, msByte_setWidth h8 _ (Nat.mod_lt _ hpos)]; rfl
  · next hi =>
    have hshort : (outputOf s.variant.tag (currentDlen s) s.h).length ≤ i.val := by
      rw [outputOf, outputBytes_length]
      omega
    exact List.getD_eq_default _ _ hshort

/-! ## The loop of low-level commands -/

/-- INIT, then PADBLK and BLOCK for the first `j` Block indexes (70 R307). -/
def lowLevelPrefix (s : State) (j : Nat) : State :=
  (List.range j).foldl (fun s' j => blockEffect (padblkEffect { s' with bidx := BitVec.ofNat 32 j })) (initEffect s)

theorem lowLevelPrefix_succ (s : State) (j : Nat) :
    lowLevelPrefix s (j + 1) = blockEffect (padblkEffect { lowLevelPrefix s j with bidx := BitVec.ofNat 32 j }) := by
  simp [lowLevelPrefix, List.range_succ]

/-- The loop does what the turns of HASH's own loop do, and leaves an index in BIDX: PADBLK reads no field that either of them has written
but BIDX. -/
theorem lowLevelPrefix_eq_hashPrefix (s : State) {j : Nat} (hj : j ≤ nblkView s) :
    ∃ b, lowLevelPrefix s j = { hashPrefix (message s) s j with bidx := b } := by
  induction j with
  | zero => exact ⟨s.bidx, rfl⟩
  | succ j ih =>
    obtain ⟨b, ih⟩ := ih (Nat.le_of_succ_le hj)
    have hview := nblkView_lt s
    have hidx : (BitVec.ofNat 32 j).toNat = j := Nat.mod_eq_of_lt (by omega)
    have hpad : paddedRegs s.variant.tag (message s) j = paddedRegs s.variant.tag (message s) (BitVec.ofNat 32 j).toNat := by
      rw [hidx]
    obtain ⟨h, blk, w, v, hframe⟩ := hashPrefix_frame (message s) s j
    refine ⟨BitVec.ofNat 32 j, ?_⟩
    rw [lowLevelPrefix_succ, ih, hashPrefix_succ, hframe, hpad]
    rfl

/-- Settles O33: the loop leaves the H of HASH's own loop, and OUTPUT reads H and VARIANT only. -/
theorem lowLevelLoopGivesTheDigest : Obligations.LowLevelLoopGivesTheDigest := by
  intro s hv looped
  obtain ⟨b, hloop⟩ := lowLevelPrefix_eq_hashPrefix s (Nat.le_refl (nblkView s))
  have hdigest : digestOfH (hashPrefix (message s) s (nblkView s)) = hashOf s (message s) := by
    rw [nblkView_eq hv, ← hashLoop_eq_hashPrefix, digestOfH_hashLoop]
  calc (outputEffect looped).dout = (outputEffect (lowLevelPrefix s (nblkView s))).dout := rfl
    _ = doutOf (digestOfH (hashPrefix (message s) s (nblkView s))) := by rw [hloop]; rfl
    _ = (hashEffect s).dout := by rw [hdigest]; rfl

end Sys2Proof.Proofs
end

section
/-! The schedule and the rounds as recurrences (spec/42_compression.md R170 to R182), the block commands that run them, and the bootstrap
of SETVAR (spec/43_variants.md R222, R224), which is one compression on the SHA-512 machinery. -/

namespace Sys2Proof.Proofs

open Sys2Proof.Machine Sys2Proof.Safety

/-! ## The schedule -/

section ScheduleEntries

variable {w : Nat}

/-- The entries of the schedule do not change once they are made (42 R171). -/
theorem scheduleUpTo_getD (f : Family) (blk : Vector (BitVec w) 16) {n m k : Nat} (hn : 16 ≤ n) (hnm : n ≤ m) (hk : k < n) :
    (scheduleUpTo f blk m).getD k 0 = (scheduleUpTo f blk n).getD k 0 := by
  induction m, hnm using Nat.le_induction with
  | base => rfl
  | succ m hm ih =>
    have hlen := scheduleUpTo_length f blk (hn.trans hm)
    rw [scheduleUpTo_succ f blk (hn.trans hm), List.getD_append _ _ _ _ (by omega), ih]

/-- The first sixteen entries are the Block (42 R171). -/
theorem expand_getD_block (a : Algo) (blk : Vector (BitVec w) 16) (hn : 16 ≤ a.n) (i : Fin 16) :
    (expand a blk).getD i.val 0 = blk[i] := by
  rw [expand_eq_scheduleUpTo, scheduleUpTo_getD _ _ (le_refl 16) hn i.isLt]
  simp [scheduleUpTo]

/-- Every further entry is the schedule word made from the entries before it (42 R172, R173). -/
theorem expand_getD_word (a : Algo) (blk : Vector (BitVec w) 16) {i : Nat} (hi : 16 ≤ i) (hin : i < a.n) :
    (expand a blk).getD i 0 = scheduleWord a.family (expand a blk) i := by
  have hlen := scheduleUpTo_length a.family blk hi
  have hnew : (scheduleUpTo a.family blk (i + 1)).getD i 0 = scheduleWord a.family (scheduleUpTo a.family blk i) i := by
    rw [scheduleUpTo_succ _ _ hi, List.getD_append_right _ _ _ _ (by omega), hlen, Nat.sub_self]
    rfl
  rw [expand_eq_scheduleUpTo, scheduleUpTo_getD _ _ (by omega) hin (Nat.lt_succ_self i), hnew]
  exact scheduleWord_congr _ hi fun k hk => (scheduleUpTo_getD _ _ hi hin.le hk).symm

end ScheduleEntries

/-- Settles O13: the recurrences are the two cases of `scheduleWord`. -/
theorem expandFollowsRecurrence : Obligations.ExpandFollowsRecurrence := by
  intro w a blk hn S
  refine ⟨expand_length a blk hn, expand_getD_block a blk hn, fun i hi hin => ⟨fun hf => ?_, fun hf => ?_⟩⟩
  all_goals
    rw [expand_getD_word a blk hi hin, hf]
    rfl

/-- A Word of W after EXPAND is the entry of the schedule (42 R174). -/
theorem expandRegs_getD {tag : VariantTag} (blk : Vector Reg64 16) {k : Nat} (hk : k < tagN tag) :
    ((expandRegs tag blk).toList.getD k 0).setWidth (tagW tag) =
      (expand (tagAlgo tag) (truncFile (tagW tag) blk)).getD k 0 := by
  have hN := tagN_le tag
  rw [← scheduleOf_expandRegs, scheduleOf_getD hk]
  simp [List.getD_eq_getElem?_getD, show k < 80 by omega]

/-- Settles O25: the Words of W are the entries of `expand`, so they follow its recurrence. -/
theorem expandCompletes : Obligations.ExpandCompletes := by
  intro s hb
  have hn : 16 ≤ tagN s.variant.tag := (lt_tagN s.variant.tag).le
  refine ⟨expandRegs s.variant.tag s.blk, exec_inFlight .expand hb, ?_⟩
  intro x
  have hx : ∀ k < tagN s.variant.tag, x k = (expand (tagAlgo s.variant.tag) (truncFile (tagW s.variant.tag) s.blk)).getD k 0 :=
    fun k hk => expandRegs_getD s.blk hk
  refine ⟨fun i hi => ?_, fun i hi => zeroFrom_expandRegs _ _ i hi, fun i => ?_, fun i hi hin => ?_⟩
  · rw [hx _ hi]
    simp [expandRegs, hi]
  · rw [hx _ (by omega), expand_getD_block (tagAlgo s.variant.tag) _ hn]
    exact truncFile_getElem _ _ _ i.isLt
  · rw [hx i hin, expand_getD_word (tagAlgo s.variant.tag) _ hi hin]
    simp only [hx (i - 2) (by omega), hx (i - 3) (by omega), hx (i - 7) (by omega), hx (i - 8) (by omega),
      hx (i - 14) (by omega), hx (i - 15) (by omega), hx (i - 16) (by omega)]
    rfl

/-! ## The rounds and the feedback -/

/-- The mixing function of a SHA-1 phase (42 R176). -/
theorem phaseMix_eq {w : Nat} (p : Nat) (b c d : BitVec w) :
    phaseMix p b c d = if p = 0 then ch b c d else if p = 2 then maj b c d else parity b c d := by
  match p with
  | 0 | 1 | 2 | _ + 3 => rfl

theorem roundFn_of_sha1 {tag : VariantTag} (h : tagFamily tag = .sha1) {w : Nat} (t : Nat) (V : Vector (BitVec w) 8) (x : BitVec w) :
    roundFn (tagAlgo tag) t V x = roundSha1 ((k1Table.getD (t / 20) 0).setWidth w) t V x := by
  cases tag with
  | sha1 => rfl
  | _ => cases h

theorem roundFn_of_sha2 {tag : VariantTag} (h : tagFamily tag = .sha2) {w : Nat} (t : Nat) (V : Vector (BitVec w) 8) (x : BitVec w) :
    roundFn (tagAlgo tag) t V x =
      roundSha2 ((if tagW tag = 32 then k256Table.getD t 0 else k512Table.getD t 0).setWidth w) V x := by
  cases tag with
  | sha1 => cases h
  | _ => rfl

/-- H after COMPRESS, register by register (42 R179, R181). -/
theorem compressRegs_getElem (tag : VariantTag) (h : Vector Reg64 8) (w : Vector Reg64 80) {k : Nat} (hk : k < 8) :
    (compressRegs tag h w)[k] =
      if k < tagSw tag then
        (h[k].setWidth (tagW tag) + (rounds (tagAlgo tag) (truncFile (tagW tag) h) (scheduleOf tag w))[k]).setWidth 64
      else h[k] := by
  simp only [compressRegs, compress, Vector.getElem_ofFn, Fin.getElem_fin]
  split
  · next hlt =>
    have hsw : k < (tagAlgo tag).sw := hlt
    rw [if_pos hsw, truncFile_getElem]
  · rfl

/-- Settles O26: the working variables are those of `roundsUpTo`, whose every turn is the round of the family. -/
theorem compressCompletes : Obligations.CompressCompletes := by
  intro s hb w tag
  refine ⟨compressRegs tag s.h s.w, roundsUpTo (tagAlgo tag) (truncFile w s.h) (scheduleOf tag s.w),
    exec_inFlight .compress hb, fun i => truncFile_getElem w s.h i i.isLt, fun t ht => ?_,
    fun i => compressRegs_getElem tag s.h s.w i.isLt⟩
  rw [roundsUpTo_succ, scheduleOf_getD ht]
  refine ⟨fun hf => ?_, fun hf => ?_⟩
  · rw [roundFn_of_sha1 hf, roundSha1, phaseMix_eq]
    exact ⟨rfl, rfl, rfl, rfl, rfl⟩
  · exact roundFn_of_sha2 hf t.val _ _

/-- COMPRESS after EXPAND, as Words: it reads from W the schedule that EXPAND has left there (42 R182). -/
theorem truncFile_compressRegs_expandRegs (tag : VariantTag) (h : Vector Reg64 8) (blk : Vector Reg64 16) :
    truncFile (tagW tag) (compressRegs tag h (expandRegs tag blk)) =
      compressBlock (tagAlgo tag) (truncFile (tagW tag) h) (truncFile (tagW tag) blk) := by
  rw [truncFile_compressRegs, scheduleOf_expandRegs]
  rfl

/-- Settles O27: the effect of BLOCK is that of EXPAND and then that of COMPRESS. -/
theorem blockCompletes : Obligations.BlockCompletes := fun s hb =>
  ⟨finish (expandEffect s), finish (blockEffect s), exec_inFlight .expand hb, exec_inFlight (s := expandEffect s) .compress hb,
    exec_inFlight .block hb, truncFile_compressRegs_expandRegs s.variant.tag s.h s.blk⟩

/-! ## The bootstrap -/

/-- A decimal numeral of the label has at most three digits (43 R225). -/
theorem decimalBytes_length_le (t : Nat) : (decimalBytes t).length ≤ 3 := by
  unfold decimalBytes
  split_ifs <;> simp

/-- The label fits in one Block (43 R224). -/
theorem nblk_bootLabel (t : Nat) : nblk 64 (bootLabel t).length = 1 := by
  have hdigits := decimalBytes_length_le t
  simp only [nblk, wordBytes, bootLabel, List.length_append, List.length_cons, List.length_nil]
  omega

/-- The derived IV is one compression of the label's Block from the modified IV (43 R224). -/
theorem derivedIv_eq_compressBlock (t : Nat) : derivedIv t = compressBlock algo512 bootIv (paddedBlock 64 (bootLabel t) 0) := by
  simp only [derivedIv, hashState, nblk_bootLabel]
  rfl

/-- A register of a 64-bit variant is its Word (10 R21). -/
theorem truncFile_64 {n : Nat} (r : Vector Reg64 n) : truncFile 64 r = r := by
  ext i hi : 1
  simp

/-- The tags whose IV the bootstrap derives (43 R222). -/
def DerivesIv (tag : VariantTag) : Prop := tag = .sha512_224 ∨ tag = .sha512_256 ∨ tag = .sha512t

theorem DerivesIv.startStage_eq {tag : VariantTag} (h : DerivesIv tag) (x : BitVec 10) :
    startStage (.setvar tag x) = .uBOOT0 := by
  rcases h with rfl | rfl | rfl <;> rfl

theorem DerivesIv.variantIv_eq {tag : VariantTag} (h : DerivesIv tag) (x : BitVec 10) :
    variantIv tag x = derivedIv (effectiveT tag x).toNat := by
  rcases h with rfl | rfl | rfl <;> rfl

/-- The compression that the bootstrap makes in the registers gives the IV of the variant (43 R222, R224). -/
theorem compressRegs_boot {tag : VariantTag} (h : DerivesIv tag) (x : BitVec 10) :
    compressRegs .sha512 bootIv (expandRegs .sha512 (zextFile (paddedBlock 64 (bootLabel (effectiveT tag x).toNat) 0))) =
      variantIv tag x := by
  have hwords : truncFile 64 (compressRegs .sha512 bootIv _) = compressBlock algo512 (truncFile 64 bootIv) (truncFile 64 _) :=
    truncFile_compressRegs_expandRegs .sha512 bootIv (zextFile (paddedBlock 64 (bootLabel (effectiveT tag x).toNat) 0))
  rwa [truncFile_zextFile (le_refl 64), truncFile_64, truncFile_64, ← derivedIv_eq_compressBlock, ← h.variantIv_eq] at hwords

/-- uBOOT0, the compression of the label's Block, and uBOOT1 leave what the whole effect of SETVAR leaves (43 R220, R224). -/
theorem boot_reaches_finish {tag : VariantTag} {s : State} (x : BitVec 10) (h : DerivesIv tag) (hs : s.seq.stage = .uBOOT0) :
    Reaches (.setvar tag x) s (finish (setvarEffect tag x s)) := by
  have hboot0 : microOp (.setvar tag x) s = microBoot0 tag x s := by simp only [microOp, hs, bootOp]
  have hcompressed := copy_reaches_feed (i := .setvar tag x) (s := microBoot0 tag x s) (by simp) rfl
  refine ((Reaches.step hboot0).trans hcompressed).trans (.step ?_)
  rw [setvarEffect, ← compressRegs_boot h x]
  rfl

/-- Settles O59: the bootstrap starts at uBOOT0, and `boot_reaches_finish` walks it to its end. -/
theorem microOpsRefineBootstrap : Obligations.MicroOpsRefineBootstrap := by
  intro tag x s a t htag hb hexec ha hdone
  obtain ⟨-, rfl⟩ := exec_accepted hb hexec ha
  rw [exec_inFlight _ ha] at hdone
  cases hdone
  exact boot_reaches_finish x htag (DerivesIv.startStage_eq htag x)

end Sys2Proof.Proofs
end

section
/-! The variants (spec/43_variants.md): the descriptors and constants, the label and the IV of the bootstrap, the length of a digest,
and the commands that load a variant or return to its IV. -/

namespace Sys2Proof.Proofs

open Sys2Proof.Machine Sys2Proof.Safety

/-! ## The bootstrap's IV and the length of a digest -/

theorem DerivesIv.variantIv_eq_compressBlock {tag : VariantTag} (h : DerivesIv tag) (t : BitVec 10) :
    variantIv tag t = compressBlock algo512 bootIv (paddedBlock 64 (bootLabel (effectiveT tag t).toNat) 0) := by
  rw [h.variantIv_eq, derivedIv_eq_compressBlock]

/-- Two tags with a derived IV and the same effective `t` have the same IV (43 R202). -/
theorem DerivesIv.variantIv_congr {tag tag' : VariantTag} {t t' : BitVec 10} (h : DerivesIv tag) (h' : DerivesIv tag')
    (ht : effectiveT tag t = effectiveT tag' t') : variantIv tag t = variantIv tag' t' := by
  rw [h.variantIv_eq, h'.variantIv_eq, ht]

/-- Settles O15: the label pads to one Block (`derivedIv_eq_compressBlock`), and tags 5 and 6 fix the effective `t` of tag 7. -/
theorem bootstrapIsOneBlock : Obligations.BootstrapIsOneBlock := by
  have h5 : DerivesIv .sha512_224 := .inl rfl
  have h6 : DerivesIv .sha512_256 := .inr (.inl rfl)
  have h7 : DerivesIv .sha512t := .inr (.inr rfl)
  exact ⟨fun t _ => h7.variantIv_eq_compressBlock t,
    fun _ => ⟨rfl, h5.variantIv_congr h7 rfl, rfl, rfl, h6.variantIv_congr h7 rfl, rfl⟩⟩

/-- Settles O17: the digest is cut to DLEN bytes, and the Words it is taken from have as many (`hashBytes_length`). -/
theorem digestHasItsLength : Obligations.DigestHasItsLength :=
  fun s m ht => hashBytes_length ht (truncFile (tagW s.variant.tag) s.ivr) m

/-! ## The constant tables -/

/-- The constants of the 32-bit variants are the high halves of the first 64 constants of the 64-bit variants (43 R214). -/
theorem k256Table_eq_highHalves : k256Table = (k512Table.take 64).map (fun k : Reg64 => k >>> 32) := by decide

theorem k256Table_getD {i : Nat} (hi : i < 64) : k256Table.getD i 0 = k512Table.getD i 0 >>> 32 := by
  have hlen : i < k512Table.length := hi.trans (by decide)
  simp [k256Table_eq_highHalves, List.getD_eq_getElem?_getD, hi, hlen]

/-- Settles O14: every entry of the tables is a value of the model's own table; the one relation between two tables is `k256Table_getD`. -/
theorem romTables : Obligations.RomTables := by
  refine ⟨?_, fun t => ⟨rfl, rfl, rfl, rfl, rfl, rfl⟩, rfl, rfl, rfl, fun i hi => k256Table_getD hi⟩
  intro row T
  refine ⟨?_, ?_, ?_, ?_, ?_, ?_, ?_, ?_⟩ <;> exact ⟨rfl, rfl, rfl, rfl, rfl, rfl, rfl, rfl⟩

/-! ## The label's numeral -/

theorem digitByte_toNat {d : Nat} (hd : d < 10) : (digitByte d).toNat = 0x30 + d := by
  simp only [digitByte, BitVec.toNat_ofNat]
  omega

/-- The numeral of the label is the decimal digits of `t`, most significant first (43 R225). -/
theorem decimalBytes_eq_digits {t : Nat} (hpos : 0 < t) (ht : t < 1000) :
    decimalBytes t = (Nat.digits 10 t).reverse.map digitByte := by
  unfold decimalBytes
  split_ifs with h10 h100
  · simp [Nat.digits_of_lt 10 t (by omega) h10]
  · simp [Nat.digits_def' (b := 10) (by omega) hpos, Nat.digits_of_lt 10 (t / 10) (by omega) (by omega)]
  · have hdiv : t / 10 / 10 = t / 100 := Nat.div_div_eq_div_mul t 10 10
    rw [Nat.digits_def' (by omega) hpos, Nat.digits_def' (by omega) (show 0 < t / 10 by omega), hdiv,
      Nat.digits_of_lt 10 (t / 100) (by omega) (by omega)]
    simp

/-- Digit bytes read as decimal give the number of their digits, least significant first. -/
theorem foldl_digitByte_reverse {ds : List Nat} (hds : ∀ d ∈ ds, d < 10) :
    (ds.reverse.map digitByte).foldl (fun acc b => acc * 10 + (b.toNat - 0x30)) 0 = Nat.ofDigits 10 ds := by
  induction ds with
  | nil => rfl
  | cons d ds ih =>
    obtain ⟨hd, hds⟩ := List.forall_mem_cons.mp hds
    simp only [List.reverse_cons, List.map_append, List.map_cons, List.map_nil, List.foldl_append, List.foldl_cons, List.foldl_nil,
      ih hds, digitByte_toNat hd, Nat.ofDigits_cons]
    omega

/-- Settles O16: the numeral is `Nat.digits 10 t` reversed, whose value, digits, last digit and length the library knows. -/
theorem labelIsDecimal : Obligations.LabelIsDecimal := by
  refine ⟨fun t => rfl, fun t hpos ht => ?_⟩
  have hdigit : ∀ d ∈ Nat.digits 10 t, d < 10 := fun d hd => Nat.digits_lt_base (by omega) hd
  refine ⟨?value, ?ascii, ?leading, decimalBytes_length_le t⟩
  case value => rw [decimalBytes_eq_digits hpos ht, foldl_digitByte_reverse hdigit, Nat.ofDigits_digits]
  case ascii =>
    intro b hb
    rw [decimalBytes_eq_digits hpos ht] at hb
    obtain ⟨d, hd, rfl⟩ := List.mem_map.mp hb
    have hlt := hdigit d (List.mem_reverse.mp hd)
    rw [digitByte_toNat hlt]
    omega
  case leading =>
    have hne : Nat.digits 10 t ≠ [] := Nat.digits_ne_nil_iff_ne_zero.mpr hpos.ne'
    have hlast : (Nat.digits 10 t).getLast hne ≠ 0 := Nat.getLast_digit_ne_zero 10 hpos.ne'
    have hbyte := digitByte_toNat (hdigit _ (List.getLast_mem hne))
    rw [decimalBytes_eq_digits hpos ht, List.head?_map, List.head?_reverse, List.getLast?_eq_getLast_of_ne_nil hne]
    intro h
    have h30 : digitByte ((Nat.digits 10 t).getLast hne) = 0x30 := Option.some.inj h
    rw [h30] at hbyte
    exact hlast (Nat.add_left_cancel hbyte).symm

/-! ## The commands -/

/-- Settles O22: in flight each command is `finish` after its effect, which is nothing, `initEffect` and `clearEffect`. -/
theorem nopInitClearComplete : Obligations.NopInitClearComplete := fun _ hb =>
  ⟨exec_inFlight .nop hb, exec_inFlight .init hb, exec_inFlight .clear hb⟩

/-- The effective `t` as one chain of conditions on the tag (30 R91). -/
theorem effectiveT_eq_ite (tag : VariantTag) (t : BitVec 10) :
    effectiveT tag t = if tag = .sha512_224 then 224 else if tag = .sha512_256 then 256 else if tag = .sha512t then t else 0 := by
  cases tag <;> rfl

/-- Settles O23: in flight SETVAR is `finish` after `setvarEffect`. -/
theorem setvarCompletes : Obligations.SetvarCompletes := by
  intro s tag t hb
  rw [← effectiveT_eq_ite]
  exact exec_inFlight (.setvar tag t) hb

end Sys2Proof.Proofs
end

section
/-! HASH and HMAC (spec/44_hash_hmac.md): the digest as a chain of compressions, the key block that HMAC normalises its key to, what the
two commands leave in DOUT, and the four stages of HMAC. -/

namespace Sys2Proof.Proofs

open Sys2Proof.Machine Sys2Proof.Safety

/-! ## The digest -/

section Digest

variable {w : Nat}

/-- The State after the first `j` Blocks of the padded message (44 R240). -/
def chainState (a : Algo) (iv : Vector (BitVec w) 8) (m : List Byte) (j : Nat) : Vector (BitVec w) 8 :=
  (List.range j).foldl (fun S j => compressBlock a S (paddedBlock w m j)) iv

theorem chainState_succ (a : Algo) (iv : Vector (BitVec w) 8) (m : List Byte) (j : Nat) :
    chainState a iv m (j + 1) = compressBlock a (chainState a iv m j) (paddedBlock w m j) := by
  simp [chainState, List.range_succ]

theorem hashState_eq_chainState (a : Algo) (iv : Vector (BitVec w) 8) (m : List Byte) :
    hashState a iv m = chainState a iv m (nblk w m.length) := rfl

/-- A digest is no longer than DLEN, so what it leaves in DOUT is zero from there on (10 R28). -/
theorem doutOf_hashBytes_getElem (a : Algo) (iv : Vector (BitVec w) 8) (dlen : Nat) (m : List Byte) (i : Fin 64) :
    (doutOf (hashBytes a iv dlen m))[i] = if i.val < dlen then (hashBytes a iv dlen m).getD i.val 0 else 0 := by
  have hlen : (hashBytes a iv dlen m).length ≤ dlen := outputBytes_length_le a dlen _
  rw [Fin.getElem_fin, doutOf_getElem]
  split
  · rfl
  · exact List.getD_eq_default _ _ (by omega)

/-- A digest is no longer than the eight Words of the State. -/
theorem hashBytes_length_le_words (a : Algo) (iv : Vector (BitVec w) 8) (dlen : Nat) (m : List Byte) :
    (hashBytes a iv dlen m).length ≤ 8 * wordBytes w := by
  rw [hashBytes, outputBytes_length]
  calc min dlen (min a.sw 8 * wordBytes w) ≤ min a.sw 8 * wordBytes w := Nat.min_le_right _ _
    _ ≤ 8 * wordBytes w := Nat.mul_le_mul_right _ (Nat.min_le_right _ _)

end Digest

/-- Settles O18: the States are those of `chainState`. -/
theorem hashChainsTheBlocks : Obligations.HashChainsTheBlocks := fun _ a iv dlen m =>
  ⟨chainState a iv m, rfl, fun j _ => chainState_succ a iv m j, by rw [hashBytes, hashState_eq_chainState]; rfl⟩

/-! ## The key block -/

/-- 43 R204: the block size is sixteen Words. -/
theorem tagB_eq (tag : VariantTag) : tagB tag = 16 * wordBytes (tagW tag) := by cases tag <;> rfl

theorem wordBytes_le (tag : VariantTag) : wordBytes (tagW tag) ≤ 8 := by cases tag <;> decide

section NormalKey

variable {w : Nat} (a : Algo) (iv : Vector (BitVec w) 8) (dlen : Nat) {key : List Byte}

/-- 44 R246: a key longer than the block counts as its digest, which the block holds. -/
theorem normalKey_of_long (h : 16 * wordBytes w < key.length) :
    normalKey a iv dlen key = normalKey a iv dlen (hashBytes a iv dlen key) := by
  have hdigest := hashBytes_length_le_words a iv dlen key
  have hfits : ¬ 16 * wordBytes w < (hashBytes a iv dlen key).length := by omega
  simp only [normalKey, gt_iff_lt, if_pos h, if_neg hfits]

/-- `k0` always has exactly `B` bytes (44 R246). -/
theorem normalKey_length (key : List Byte) : (normalKey a iv dlen key).length = 16 * wordBytes w := by
  have hdigest := hashBytes_length_le_words a iv dlen key
  simp only [normalKey, List.length_append, List.length_replicate]
  split <;> omega

end NormalKey

/-- Settles O19: HMAC reads of its key only the key block. -/
theorem longKeyCountsAsItsDigest : Obligations.LongKeyCountsAsItsDigest := by
  intro s key m _ hlong
  rw [tagB_eq] at hlong
  simp only [hmacOf, hashOf, hmacBytes, ← normalKey_of_long _ _ _ hlong]

/-- Settles O20: a digest is at most eight Words, and eight and the two of the length suffix do not fill a Block. -/
theorem outerMessageIsTwoBlocks : Obligations.OuterMessageIsTwoBlocks := by
  intro tag t ht
  obtain ⟨-, hpos⟩ := wordBytes_whole (tagW_eq tag)
  have hdigest : digestLen tag t.toNat ≤ 8 * wordBytes (tagW tag) :=
    (digestLen_le ht).1.trans (Nat.mul_le_mul_right _ (Nat.min_le_right _ _))
  rw [nblk, tagB_eq, Nat.add_assoc, Nat.add_div_left _ (by omega), Nat.div_eq_of_lt (by omega)]

/-! ## HASH and HMAC complete -/

/-- `MemRead` from address 0 is the bytes in order (00 R13). -/
theorem memRead_zero (s : State) (sp : Space) (n : Nat) :
    memRead s sp 0 n = (List.range n).map (fun a => readByte s sp a) := by
  simp [memRead]

/-- Settles O29: in flight HASH is `finish` after `hashEffect`, which leaves the digest of the message in DOUT. -/
theorem hashCompletes : Obligations.HashCompletes := by
  intro s hb hv
  refine ⟨doutOf (hashOf s (message s)), exec_inFlight .hash hb, ?_⟩
  rw [dlenView_of_valid hv, ← memRead_zero]
  exact doutOf_hashBytes_getElem _ _ _ _

/-- Settles O30: in flight HMAC is `finish` after `hmacEffect`, and the construction written out is `hmacBytes`. -/
theorem hmacCompletes : Obligations.HmacCompletes := by
  intro s hb hv
  have hblk : blkszView s = 16 * wordBytes (tagW s.variant.tag) := by rw [blkszView, if_pos hv, tagB_eq]
  refine ⟨doutOf (hmacOf s (keyBytes s) (message s)), exec_inFlight .hmac hb, ?_⟩
  rw [dlenView_of_valid hv, hblk, ← memRead_zero, ← memRead_zero]
  exact doutOf_hashBytes_getElem _ _ _ _

/-! ## The stages of HMAC -/

/-- The normalised key of a state, `k0` (44 R246). -/
def keyBlock (s : State) : List Byte :=
  normalKey (tagAlgo s.variant.tag) (truncFile (tagW s.variant.tag) s.ivr) (currentDlen s) (keyBytes s)

/-- The message of the inner hash (44 R248). -/
def innerMessage (s : State) : List Byte := xorPad 0x36 (keyBlock s) ++ message s

/-- The message of the outer hash (44 R248). -/
def outerMessage (s : State) : List Byte := xorPad 0x5C (keyBlock s) ++ hashOf s (innerMessage s)

theorem hmacOf_eq_hashOf_outerMessage (s : State) : hmacOf s (keyBytes s) (message s) = hashOf s (outerMessage s) := rfl

/-- The key block as K0 holds it (44 R250). -/
def keyBlockRegs (s : State) : Vector Byte 128 := regFile 128 (fun i => (keyBlock s).getD i 0)

/-- The zero bytes behind a key are what a read past its end gives. -/
theorem getD_append_zeros (bs : List Byte) (n i : Nat) : (bs ++ List.replicate n 0).getD i 0 = bs.getD i 0 := by
  by_cases hi : i < bs.length
  · exact List.getD_append _ _ _ _ hi
  · have hle : bs.length ≤ i := Nat.le_of_not_lt hi
    rw [List.getD_append_right _ _ _ _ hle, List.getD_eq_default bs 0 hle, List.getD_eq_getElem?_getD,
      List.getElem?_getD_replicate_default_eq]

/-- K0 need not hold the zero fill of the key block: it is zero there anyway. -/
theorem keyBlockRegs_eq (s : State) :
    keyBlockRegs s =
      regFile 128 (fun i => (if s.keyLen.toNat > tagB s.variant.tag then hashOf s (keyBytes s) else keyBytes s).getD i 0) := by
  simp only [keyBlockRegs, keyBlock, normalKey, getD_append_zeros, keyBytes_length, tagB_eq]
  rfl

/-- A list read from a register file that holds it. -/
theorem take_regFile_getD {n k : Nat} {bs : List Byte} (h : bs.length = min k n) :
    (regFile n (fun i => bs.getD i 0)).toList.take k = bs := by
  refine List.ext_getElem (by simp [h]) (fun i _ hi => ?_)
  simp [hi]

/-- `t` is `s` at a stage of HMAC, with `k0` in K0 and `dout` in DOUT; a loop of HASH has left what it may in H, BLK, W and V. -/
def HmacAt (s : State) (st : Stage) (k0 : Vector Byte 128) (dout : Vector Byte 64) (t : State) : Prop :=
  ∃ h blk w v, t = seqTo st 0 { s with h := h, blk := blk, w := w, v := v, k0 := k0, dout := dout }

/-- The pads are made of the whole key block (44 R247). -/
theorem k0Pad_of_hmacAt {s t : State} {st : Stage} {dout : Vector Byte 64} (h : HmacAt s st (keyBlockRegs s) dout t) (x : Byte) :
    k0Pad x t = xorPad x (keyBlock s) := by
  obtain ⟨h, blk, w, v, rfl⟩ := h
  have hwb := wordBytes_le s.variant.tag
  have hlen : (keyBlock s).length = min (tagB s.variant.tag) 128 := by
    rw [keyBlock, normalKey_length, tagB_eq]
    omega
  exact congrArg (xorPad x) (take_regFile_getD hlen)

/-- Under any variant at all, constructible or not, a digest has DLEN bytes or fills DOUT. -/
theorem hashOf_length (s : State) (m : List Byte) : (hashOf s m).length = min (currentDlen s) 64 := by
  rw [hashOf, hashBytes, outputBytes_length, currentDlen, tagAlgo]
  cases s.variant.tag <;> rfl

/-- uOUTER reads from DOUT the inner digest that uINNER has left there (44 R250). -/
theorem take_doutOf_hashOf (s : State) (m : List Byte) :
    (doutOf (hashOf s m)).toList.take (currentDlen s) = hashOf s m :=
  take_regFile_getD (hashOf_length s m)

/-- The loop of HASH writes H, BLK, W and V only. -/
theorem hashLoop_frame (m : List Byte) (s : State) :
    ∃ h blk w v, hashLoop m s = { s with h := h, blk := blk, w := w, v := v } :=
  hashPrefix_frame m s _

/-- uKEY leaves the key block in K0 (44 R246, R250). -/
theorem hmacAt_uKEY {s : State} (hs : s.seq.stage = .uKEY) :
    HmacAt s .uINNER (keyBlockRegs s) s.dout (microOp .hmac s) := by
  have hop : microOp .hmac s = microKey s := by simp only [microOp, hs]
  rw [hop, keyBlockRegs_eq]
  by_cases hlong : s.keyLen.toNat > tagB s.variant.tag
  · obtain ⟨h, blk, w, v, hloop⟩ := hashLoop_frame (keyBytes s) s
    refine ⟨h, blk, w, v, ?_⟩
    simp only [microKey, if_pos hlong, digestOfH_hashLoop]
    rw [hloop]
  · refine ⟨s.h, s.blk, s.w, s.v, ?_⟩
    simp only [microKey, if_neg hlong]

/-- What uINNER and uOUTER share: a loop of HASH over `m`, its digest taken to DOUT (44 R250). -/
def digestToDout (m : List Byte) (st : Stage) (s : State) : State :=
  seqTo st 0 { hashLoop m s with dout := doutOf (digestOfH (hashLoop m s)) }

theorem hmacAt_digestToDout {s t : State} {st st' : Stage} {k0 : Vector Byte 128} {dout : Vector Byte 64}
    (m : List Byte) (h : HmacAt s st k0 dout t) : HmacAt s st' k0 (doutOf (hashOf s m)) (digestToDout m st' t) := by
  obtain ⟨h', blk', w', v', hloop⟩ := hashLoop_frame m t
  rw [digestToDout, digestOfH_hashLoop, hloop]
  obtain ⟨h, blk, w, v, rfl⟩ := h
  exact ⟨h', blk', w', v', rfl⟩

/-- uINNER leaves the inner digest in DOUT (44 R248, R250). -/
theorem hmacAt_uINNER {s t : State} {dout : Vector Byte 64} (h : HmacAt s .uINNER (keyBlockRegs s) dout t) :
    HmacAt s .uOUTER (keyBlockRegs s) (doutOf (hashOf s (innerMessage s))) (microOp .hmac t) := by
  have hop : microOp .hmac t = digestToDout (innerMessage s) .uOUTER t := by
    rw [innerMessage, ← k0Pad_of_hmacAt h]
    obtain ⟨h, blk, w, v, rfl⟩ := h
    rfl
  rw [hop]
  exact hmacAt_digestToDout _ h

/-- uOUTER takes the outer digest to DOUT (44 R248, R250). -/
theorem hmacAt_uOUTER {s t : State} (h : HmacAt s .uOUTER (keyBlockRegs s) (doutOf (hashOf s (innerMessage s))) t) :
    HmacAt s .uWIPE (keyBlockRegs s) (doutOf (hashOf s (outerMessage s))) (microOp .hmac t) := by
  have hop : microOp .hmac t = digestToDout (outerMessage s) .uWIPE t := by
    rw [outerMessage, ← k0Pad_of_hmacAt h, ← take_doutOf_hashOf]
    obtain ⟨h, blk, w, v, rfl⟩ := h
    rfl
  rw [hop]
  exact hmacAt_digestToDout _ h

/-- uWIPE ends HMAC with DOUT kept and every register that has held key material wiped (44 R250, R251). -/
theorem microOp_uWIPE_hmac {s t : State} {k0 : Vector Byte 128} (h : HmacAt s .uWIPE k0 (doutOf (hashOf s (outerMessage s))) t) :
    microOp .hmac t = finish (hmacEffect s) := by
  obtain ⟨h, blk, w, v, rfl⟩ := h
  rw [hmacEffect, hmacOf_eq_hashOf_outerMessage]
  rfl

/-- Settles O58: uKEY, uINNER, uOUTER and uWIPE in turn. -/
theorem microOpsRefineHmac : Obligations.MicroOpsRefineHmac := by
  intro s a t hb hexec ha hdone
  obtain ⟨-, rfl⟩ := exec_accepted hb hexec ha
  rw [exec_inFlight _ ha] at hdone
  cases hdone
  exact microOp_uWIPE_hmac (hmacAt_uOUTER (hmacAt_uINNER (hmacAt_uKEY (s := accept (encode .hmac) (startStage .hmac) s) rfl)))

end Sys2Proof.Proofs
end

section
/-! Errors and the interrupt output (spec/60_exceptions.md). -/

namespace Sys2Proof.Proofs

open Sys2Proof.Machine Sys2Proof.Safety

/-- Settles O34: by whether an error is kept already; the codes are those of the table of R270. -/
theorem firstErrorIsKept : Obligations.FirstErrorIsKept := by
  refine ⟨fun e s => ?_, rfl, rfl, rfl, rfl, rfl, rfl, rfl, rfl⟩
  cases herr : s.status.err with
  | true => exact errorEntry_of_err herr
  | false => exact errorEntry_of_noErr herr

/-- Settles O38: the output is an OR of two sources, each a flag of STATUS that IEN lets through. -/
theorem interruptOutput : Obligations.InterruptOutput := by
  intro s
  rw [irq, Bool.or_eq_true, Bool.and_eq_true, Bool.and_eq_true]

end Sys2Proof.Proofs
end
